-- ==== Sys2Proof/Word.lean ====
section
/-! DEFINITION. The word type of the block and its plainest arithmetic (spec/00_scope.md R10, R11). -/

namespace Sys2Proof

/-- A byte: every register, frame field, queue element and byte parameter (R10). -/
abbrev Byte := BitVec 8

/-- `zext_11(v)`: the unsigned value of a byte widened to 11 bits with zeros on the left (R11, R63). -/
def zext11 (v : Byte) : BitVec 11 := v.setWidth 11

/-- `v[7:0]`: the low eight bits of an 11-bit value (R10, R80). -/
def low8 (v : BitVec 11) : Byte := v.setWidth 8

end Sys2Proof
end

