-- ==== Sys2Proof/Config.lean ====
section
/-! DEFINITION. The implementation parameters (spec/00_scope.md R8, R9; spec/10_state.md R25, R26) and the one free
value of the model: what the collaborator's receive queue holds after it overflowed. -/

namespace Sys2Proof

/-- The parameters of R8 that the source leaves open, as the block was instantiated. They are a field of the machine's
state, so that every statement over all states holds for every binding; no operation writes them (R25). Nothing assumes
the five bytes distinct (R8). -/
structure Config where
  /-- `DOMAIN`: "the protocol's fixed domain byte" (R8, R25). -/
  domain : Byte
  /-- `MAINBOARD_1`: a sender and a receiver address (R25). -/
  mainboard1 : Byte
  /-- `PANEL_1`: a sender and a receiver address (R25). -/
  panel1 : Byte
  /-- `PANELS_BROADCAST`: a receiver address (R25). -/
  panelsBroadcast : Byte
  /-- `MAINBOARDS_BROADCAST`: a receiver address (R25). -/
  mainboardsBroadcast : Byte
  /-- `VERIFY_CHECKSUM`: true is strict, false is lenient (R26). -/
  verifyChecksum : Bool
  /-- `RXQ_CAP`: the bound of the collaborator's receive queue, or `none` for unbounded (R8, R40). -/
  rxqCap : Option Nat
  deriving DecidableEq, Repr

/-- The default binding `P0` of R9, in strict mode (R26), with `RXQ_CAP` unbounded. PRESUMED and DESIGN CHOICE: log
entry 1. Only `State.reset`, the table words and the tests use it. -/
def Config.p0 : Config where
  domain := 0x01
  mainboard1 := 0x11
  panel1 := 0x21
  panelsBroadcast := 0x20
  mainboardsBroadcast := 0x10
  verifyChecksum := true
  rxqCap := none

/-- Free value: what `RX` holds after a byte arrived at a full receive queue, for the n-th overflow of a run. The spec
leaves the collaborator's behaviour on overflow unspecified and asks for `any value`
(spec/93_implementation_defined.md U8); no proof can see what it is. Log entry 6. -/
opaque Config.rxAfterOverflow (draw : Nat) : List Byte

end Sys2Proof
end

