-- ==== Sys2Proof/Syntax.lean ====
section
/-! DEFINITION. The frame (spec/30_encoding.md R60, R61) and the rows of spec/opcode_table.json as one inductive: the
nine operations of R67 and the eight received frame classes of R64. -/

namespace Sys2Proof

/-- Six bytes in wire order, byte 0 first (R60, R61). The names are those of the fields of a frame; any six bytes are a
value of this type, well formed or not. It is also the shape of the buffer registers `buf[0]` to `buf[5]` (R21). -/
structure Frame where
  /-- Byte 0. -/
  domain : Byte
  /-- Byte 1. -/
  sender : Byte
  /-- Byte 2. -/
  receiver : Byte
  /-- Byte 3. -/
  variableId : Byte
  /-- Byte 4. -/
  value : Byte
  /-- Byte 5. -/
  checksum : Byte
  deriving DecidableEq, Repr

/-- The instructions: one constructor per row of spec/opcode_table.json. A frame class fixes the domain byte, the sender
and the receiver by the parameters, and carries the three bytes that remain (R64). -/
inductive Instr where
  /-- `CSUM b0, b1, b2, b3, b4` (R80). -/
  | csum (b0 b1 b2 b3 b4 : Byte)
  /-- `ENC s, r, i, v` (R82). -/
  | enc (sender receiver variableId value : Byte)
  /-- `VFY B` (R83). -/
  | vfy (b : Frame)
  /-- `DEC B` (R86). -/
  | dec (b : Frame)
  /-- `AFLT B` (R85). -/
  | aflt (b : Frame)
  /-- `TXF F` (R100). -/
  | txf (f : Frame)
  /-- `RXB` (R102). -/
  | rxb
  /-- `RDF` (R107). -/
  | rdf
  /-- `RST` (R113). -/
  | rst
  /-- `FRM.MB1_PANELS`: received from `MAINBOARD_1` for `PANELS_BROADCAST` (R64, R106). -/
  | frmMb1Panels (variableId value checksum : Byte)
  /-- `FRM.MB1_PANEL1`: received from `MAINBOARD_1` for `PANEL_1` (R64, R106). -/
  | frmMb1Panel1 (variableId value checksum : Byte)
  /-- `FRM.MB1_MB1`: received from `MAINBOARD_1` for `MAINBOARD_1` (R64, R106). -/
  | frmMb1Mb1 (variableId value checksum : Byte)
  /-- `FRM.MB1_MBS`: received from `MAINBOARD_1` for `MAINBOARDS_BROADCAST` (R64, R106). -/
  | frmMb1Mbs (variableId value checksum : Byte)
  /-- `FRM.P1_PANELS`: received from `PANEL_1` for `PANELS_BROADCAST` (R64, R106). -/
  | frmP1Panels (variableId value checksum : Byte)
  /-- `FRM.P1_PANEL1`: received from `PANEL_1` for `PANEL_1` (R64, R106). -/
  | frmP1Panel1 (variableId value checksum : Byte)
  /-- `FRM.P1_MB1`: received from `PANEL_1` for `MAINBOARD_1` (R64, R106). -/
  | frmP1Mb1 (variableId value checksum : Byte)
  /-- `FRM.P1_MBS`: received from `PANEL_1` for `MAINBOARDS_BROADCAST` (R64, R106). -/
  | frmP1Mbs (variableId value checksum : Byte)
  deriving DecidableEq, Repr

end Sys2Proof
end

