-- ==== Sys2Proof/Machine/Operands.lean ====
section
/-! DEFINITION. The operand forms: six bytes read and written by index, the checksum, the assembly of a frame from its
fields, the frame a received frame class stands for, and the result byte of a test. -/

namespace Sys2Proof

/-- `B[k]` of six bytes, `k` in 0..5 (R10, R61); the read of `buf[k]` (R11, R21). -/
def Frame.get (f : Frame) (k : Fin 6) : Byte :=
  match k with
  | 0 => f.domain
  | 1 => f.sender
  | 2 => f.receiver
  | 3 => f.variableId
  | 4 => f.value
  | 5 => f.checksum

/-- `B[k] <- v` of six bytes, `k` in 0..5; the write of `buf[k]` (R11, R21, R112). -/
def Frame.set (f : Frame) (k : Fin 6) (v : Byte) : Frame :=
  match k with
  | 0 => { f with domain := v }
  | 1 => { f with sender := v }
  | 2 => { f with receiver := v }
  | 3 => { f with variableId := v }
  | 4 => { f with value := v }
  | 5 => { f with checksum := v }

/-- The six bytes in the order they travel on the wire (R44). -/
def Frame.bytes (f : Frame) : List Byte :=
  [f.domain, f.sender, f.receiver, f.variableId, f.value, f.checksum]

end Sys2Proof

namespace Sys2Proof.Machine

/-- `csum(b0, b1, b2, b3, b4)`: the zero-extended sum of five bytes, low eight bits kept (R62, R63, R80). -/
def csum (b0 b1 b2 b3 b4 : Byte) : Byte :=
  low8 (zext11 b0 + zext11 b1 + zext11 b2 + zext11 b3 + zext11 b4)

/-- The checksum of bytes 0 to 4 of six bytes; byte 5 is not summed (R62). -/
def frameCsum (f : Frame) : Byte :=
  csum f.domain f.sender f.receiver f.variableId f.value

/-- The frame `ENC` builds: the domain byte, the four operands unchanged, and the checksum (R82). -/
def buildFrame (c : Config) (sender receiver variableId value : Byte) : Frame where
  domain := c.domain
  sender := sender
  receiver := receiver
  variableId := variableId
  value := value
  checksum := csum c.domain sender receiver variableId value

/-- The received frame of a class: the domain byte, the two addresses of the class and the three bytes that a class
leaves free (R64). -/
def receivedFrame (c : Config) (sender receiver variableId value checksum : Byte) : Frame where
  domain := c.domain
  sender := sender
  receiver := receiver
  variableId := variableId
  value := value
  checksum := checksum

/-- The result byte of a test: 0x01 for true, 0x00 for false (R67). -/
def boolByte (b : Bool) : Byte := if b then 0x01 else 0x00

end Sys2Proof.Machine

namespace Sys2Proof

open Sys2Proof.Machine

/-- The six bytes of a received frame class under a parameter binding, `none` for an operation (R64). -/
def Instr.frame? (c : Config) : Instr → Option Frame
  | .csum _ _ _ _ _ => none
  | .enc _ _ _ _ => none
  | .vfy _ => none
  | .dec _ => none
  | .aflt _ => none
  | .txf _ => none
  | .rxb => none
  | .rdf => none
  | .rst => none
  | .frmMb1Panels i v k => some (receivedFrame c c.mainboard1 c.panelsBroadcast i v k)
  | .frmMb1Panel1 i v k => some (receivedFrame c c.mainboard1 c.panel1 i v k)
  | .frmMb1Mb1 i v k => some (receivedFrame c c.mainboard1 c.mainboard1 i v k)
  | .frmMb1Mbs i v k => some (receivedFrame c c.mainboard1 c.mainboardsBroadcast i v k)
  | .frmP1Panels i v k => some (receivedFrame c c.panel1 c.panelsBroadcast i v k)
  | .frmP1Panel1 i v k => some (receivedFrame c c.panel1 c.panel1 i v k)
  | .frmP1Mb1 i v k => some (receivedFrame c c.panel1 c.mainboard1 i v k)
  | .frmP1Mbs i v k => some (receivedFrame c c.panel1 c.mainboardsBroadcast i v k)

end Sys2Proof
end

