-- ==== Sys2Proof/Decode.lean ====
section
/-! DEFINITION. Decoding of the two formats: commands on the host port (spec/30_encoding.md R66 to R69) and received
frames (R61, R64, R65); the fetch from the host port; and, after it, the encoder of both. Every byte list is decoded or
rejected by name. -/

namespace Sys2Proof

open Sys2Proof.Machine

/-- Why bytes are no instruction. -/
inductive DecodeError where
  /-- There is no byte to decode. -/
  | noBytes
  /-- The operation code is unassigned (R68). -/
  | badOp (code : Byte)
  /-- Fewer bytes follow than the format needs (R67, R69). -/
  | truncated
  /-- Byte 0 of a frame is not `DOMAIN` (R65 (a)). -/
  | badDomain
  /-- The sender or the receiver of a frame is not recognized (R65 (b)). -/
  | badAddress
  deriving DecidableEq, Repr

/-- The nine operations, without operands (R5). -/
inductive Op where
  | csum | enc | vfy | dec | aflt | txf | rxb | rdf | rst
  deriving DecidableEq, Repr

/-- A row of the operation table: match and mask over the operation code byte, and the command's length in bytes. -/
structure OpRow where
  code : Byte
  mask : Byte
  op : Op
  length : Nat
  deriving DecidableEq, Repr

/-- The complete operation table of R67. -/
def opTable : List OpRow :=
  [ ⟨0x01, 0xFF, .csum, 6⟩, ⟨0x02, 0xFF, .enc, 5⟩, ⟨0x03, 0xFF, .vfy, 7⟩,
    ⟨0x04, 0xFF, .dec, 7⟩, ⟨0x05, 0xFF, .aflt, 7⟩, ⟨0x06, 0xFF, .txf, 7⟩,
    ⟨0x07, 0xFF, .rxb, 1⟩, ⟨0x08, 0xFF, .rdf, 1⟩, ⟨0x0F, 0xFF, .rst, 1⟩ ]

/-- Does a row match an operation code byte (R67)? -/
def OpRow.hits (r : OpRow) (code : Byte) : Bool := code &&& r.mask == r.code

/-- The row of an operation code, `none` for an unassigned code (R68). -/
def opRow? (code : Byte) : Option OpRow := opTable.find? (fun r => r.hits code)

/-- The operand bytes of an operation, in the order of R67, and the bytes after them; `none` if too few follow. -/
def readOperands (op : Op) (q : List Byte) : Option (Instr × List Byte) :=
  match op, q with
  | .csum, b0 :: b1 :: b2 :: b3 :: b4 :: q => some (.csum b0 b1 b2 b3 b4, q)
  | .enc, s :: r :: i :: v :: q => some (.enc s r i v, q)
  | .vfy, b0 :: b1 :: b2 :: b3 :: b4 :: b5 :: q => some (.vfy ⟨b0, b1, b2, b3, b4, b5⟩, q)
  | .dec, b0 :: b1 :: b2 :: b3 :: b4 :: b5 :: q => some (.dec ⟨b0, b1, b2, b3, b4, b5⟩, q)
  | .aflt, b0 :: b1 :: b2 :: b3 :: b4 :: b5 :: q => some (.aflt ⟨b0, b1, b2, b3, b4, b5⟩, q)
  | .txf, b0 :: b1 :: b2 :: b3 :: b4 :: b5 :: q => some (.txf ⟨b0, b1, b2, b3, b4, b5⟩, q)
  | .rxb, q => some (.rxb, q)
  | .rdf, q => some (.rdf, q)
  | .rst, q => some (.rst, q)
  | _, _ => none

/-- Decode the first command of a byte sequence: the instruction and the bytes after it (R66, R67). -/
def decodeCommand (q : List Byte) : Except DecodeError (Instr × List Byte) :=
  match q with
  | [] => .error .noBytes
  | code :: rest =>
    match opRow? code with
    | none => .error (.badOp code)
    | some row =>
      match readOperands row.op rest with
      | none => .error .truncated
      | some r => .ok r

/-- A row of the table of received frame classes: the two addresses and the constructor (R64). -/
structure ClassRow where
  sender : Byte
  receiver : Byte
  /-- Which constructor, as the class's instruction with zero free bytes. -/
  make : Byte → Byte → Byte → Instr

/-- The eight received frame classes of R64, in the order of spec/opcode_table.json. -/
def classTable (c : Config) : List ClassRow :=
  [ ⟨c.mainboard1, c.panelsBroadcast, .frmMb1Panels⟩, ⟨c.mainboard1, c.panel1, .frmMb1Panel1⟩,
    ⟨c.mainboard1, c.mainboard1, .frmMb1Mb1⟩, ⟨c.mainboard1, c.mainboardsBroadcast, .frmMb1Mbs⟩,
    ⟨c.panel1, c.panelsBroadcast, .frmP1Panels⟩, ⟨c.panel1, c.panel1, .frmP1Panel1⟩,
    ⟨c.panel1, c.mainboard1, .frmP1Mb1⟩, ⟨c.panel1, c.mainboardsBroadcast, .frmP1Mbs⟩ ]

/-- The class of six bytes by sender and receiver: the first row that fits. Where a binding gives two parameters one
value several rows fit; the class has no effect on what the block does (R64). Log entry 8. -/
def frameClass? (c : Config) (b : Frame) : Option Instr :=
  ((classTable c).find? (fun r => b.sender == r.sender && b.receiver == r.receiver)).map
    (fun r => r.make b.variableId b.value b.checksum)

/-- Decode six bytes as a received frame (R61, R64). The checksum is not expressible in the pattern and is tested when
the frame is completed (the `p0_note` of spec/opcode_table.json, R106). -/
def classify (c : Config) (b : Frame) : Except DecodeError Instr :=
  if b.domain = c.domain then
    match frameClass? c b with
    | none => .error .badAddress
    | some i => .ok i
  else .error .badDomain

/-- Decode the first six bytes of a stream as a received frame: the frame class and the bytes after it (R69). -/
def decodeFrame (c : Config) (q : List Byte) : Except DecodeError (Instr × List Byte) :=
  match q with
  | [] => .error .noBytes
  | b0 :: b1 :: b2 :: b3 :: b4 :: b5 :: rest =>
    match classify c ⟨b0, b1, b2, b3, b4, b5⟩ with
    | .ok i => .ok (i, rest)
    | .error e => .error e
  | _ => .error .truncated

/-- What the host port holds next. -/
inductive Fetch where
  /-- No whole command: nothing, or a command whose operand bytes the host has not all presented. -/
  | idle
  /-- An unassigned operation code, and the bytes after it. -/
  | unassigned (rest : List Byte)
  /-- An instruction, and the bytes after it. -/
  | run (i : Instr) (rest : List Byte)
  deriving DecidableEq, Repr

/-- Fetch from the host port. An unassigned code takes no operand bytes (R68); a command that is not complete is left
where it is until the rest is presented (log entry 4). -/
def fetch (port : List Byte) : Fetch :=
  match decodeCommand port with
  | .ok (i, rest) => .run i rest
  | .error (.badOp _) => .unassigned port.tail
  | .error _ => .idle

/-- Byte `k` of a word whose byte 0 is its low byte. -/
def byteOf (w k : Nat) : Byte := BitVec.ofNat 8 (w / 256 ^ k)

/-- The longest command, seven bytes (R67), of the table's operation word: the low `nbits` bits of `w`, low byte first,
zeros above them. -/
def commandBytes (nbits w : Nat) : List Byte :=
  (List.range 7).map (byteOf (w % 2 ^ nbits))

/-- A FRAME row's 48-bit word, byte 0 in bits 47:40 (R10, R61). -/
def wordFrame (w : Nat) : Frame :=
  ⟨byteOf w 5, byteOf w 4, byteOf w 3, byteOf w 2, byteOf w 1, byteOf w 0⟩

/-- Does the table give this many bits to its FRAME rows? Operation rows have 8. -/
def isFrameWord (nbits : Nat) : Bool := nbits == 48

/-- The instruction the decoder reads from a word of spec/opcode_table.json: a 48-bit word is a received frame under
`P0` (the table's `p0_match`), any other an operation. Log entry 9. -/
def decodeTableWord (nbits w : Nat) : Option Instr :=
  if isFrameWord nbits then (classify Config.p0 (wordFrame w)).toOption
  else (decodeCommand (commandBytes nbits w)).toOption.map Prod.fst

/-- The bytes of a table word's own command: as many as the operation takes, one for an unassigned code (R67, R68). -/
def tableCommand (nbits w : Nat) : List Byte :=
  match decodeCommand (commandBytes nbits w) with
  | .ok (_, rest) => (commandBytes nbits w).take (7 - rest.length)
  | .error _ => (commandBytes nbits w).take 1

/-! The encoder, from the same tables. -/

/-- The operation code of an operation (R67). -/
def Op.code (op : Op) : Byte :=
  match op with
  | .csum => 0x01
  | .enc => 0x02
  | .vfy => 0x03
  | .dec => 0x04
  | .aflt => 0x05
  | .txf => 0x06
  | .rxb => 0x07
  | .rdf => 0x08
  | .rst => 0x0F

/-- The operation and its operand bytes, `none` for a received frame class (R67). -/
def Instr.command? (i : Instr) : Option (Op × List Byte) :=
  match i with
  | .csum b0 b1 b2 b3 b4 => some (.csum, [b0, b1, b2, b3, b4])
  | .enc s r i v => some (.enc, [s, r, i, v])
  | .vfy b => some (.vfy, b.bytes)
  | .dec b => some (.dec, b.bytes)
  | .aflt b => some (.aflt, b.bytes)
  | .txf f => some (.txf, f.bytes)
  | .rxb => some (.rxb, [])
  | .rdf => some (.rdf, [])
  | .rst => some (.rst, [])
  | .frmMb1Panels _ _ _ => none
  | .frmMb1Panel1 _ _ _ => none
  | .frmMb1Mb1 _ _ _ => none
  | .frmMb1Mbs _ _ _ => none
  | .frmP1Panels _ _ _ => none
  | .frmP1Panel1 _ _ _ => none
  | .frmP1Mb1 _ _ _ => none
  | .frmP1Mbs _ _ _ => none

/-- The bytes of an instruction: an operation as the host presents it (R66, R67), a received frame class as its six
bytes on the wire (R61, R64). -/
def encode (c : Config) (i : Instr) : List Byte :=
  match i.command?, i.frame? c with
  | some (op, operands), _ => op.code :: operands
  | none, some b => b.bytes
  | none, none => []

/-- The length in bytes of an instruction: the command length of R67, six for a frame (R69). -/
def encodedLength (i : Instr) : Nat :=
  match i.command? with
  | some (op, _) => ((opTable.find? (fun r => r.op == op)).map OpRow.length).getD 0
  | none => 6

end Sys2Proof
end

