-- ==== Sys2Proof/Machine/Flags.lean ====
section
/-! DEFINITION. The conditions. The block has no status flag (spec/10_state.md R24); what stands here are the tests on
six bytes that its operations make: `DomainOK`, `ChecksumOK`, `AddrOK`, `WellFormed` (R84) and `Accept` (R87). -/

namespace Sys2Proof.Machine

/-- `DomainOK(B)` (R84). -/
def domainOK (c : Config) (b : Frame) : Bool := b.domain == c.domain

/-- `ChecksumOK(B)` (R84). -/
def checksumOK (b : Frame) : Bool := b.checksum == frameCsum b

/-- The recognized senders: `MAINBOARD_1`, `PANEL_1` (R50, R85). -/
def senderOK (c : Config) (a : Byte) : Bool := a == c.mainboard1 || a == c.panel1

/-- The recognized receivers: `PANELS_BROADCAST`, `PANEL_1`, `MAINBOARD_1`, `MAINBOARDS_BROADCAST` (R50, R85). -/
def receiverOK (c : Config) (a : Byte) : Bool :=
  a == c.panelsBroadcast || a == c.panel1 || a == c.mainboard1 || a == c.mainboardsBroadcast

/-- `AddrOK(B)`: the sender and the receiver are tested independently (R84, R85; spec/90_conflicts.md C1). -/
def addrOK (c : Config) (b : Frame) : Bool := senderOK c b.sender && receiverOK c b.receiver

/-- The checksum part of a check that only strict mode makes: `¬VERIFY_CHECKSUM ∨ ChecksumOK(B)` (R26, R87). -/
def checksumPasses (c : Config) (b : Frame) : Bool := !c.verifyChecksum || checksumOK b

/-- `Accept(B)`: the reader's acceptance predicate on a completed buffer (R87). -/
def accept (c : Config) (b : Frame) : Bool := addrOK c b && checksumPasses c b

/-- `WellFormed(B)`: all three predicates hold (R84). -/
def wellFormedFrame (c : Config) (b : Frame) : Bool := domainOK c b && addrOK c b && checksumOK b

end Sys2Proof.Machine
end

