-- ==== Sys2Proof/Machine/State.lean ====
section
/-! DEFINITION. The state of the machine as plain data, the reasons a step can stop, and the state after reset. -/

namespace Sys2Proof.Machine

/-- The ways the machine stops. Nothing the block does is fatal (spec/60_exceptions.md R137). -/
inductive Fault where
  /-- Raised by `MemRead(RX, 1)` on an empty `RX`, whose behaviour the source does not define
  (spec/20_memory.md R42, spec/93_implementation_defined.md U4: `stuck`). Safe: the machine stops and no value is read.
  No operation reaches it, because `RXB` and `RDF` test `Avail()` first (R166). -/
  | rxEmpty
  deriving DecidableEq, Repr

/-- Instructions without a meaning. -/
inductive Refusal where
  /-- Raised by an arm of `exec` for an instruction that has no meaning yet; no arm does. Safe. -/
  | notModelled (mnemonic : String)
  deriving DecidableEq, Repr

/-- The status codes of the host port (spec/60_exceptions.md R135). -/
inductive Status where
  /-- Done. -/
  | ok
  /-- `RX` was empty and no frame was completed. -/
  | noFrame
  /-- One byte was taken from `RX` and no frame was accepted by it. -/
  | consumed
  /-- Byte 0 is not `DOMAIN`. -/
  | badDomain
  /-- Strict mode and the checksum byte is wrong. -/
  | badChecksum
  /-- No such operation. -/
  | badOp
  deriving DecidableEq, Repr

/-- One answer of the block on the host port: a status and that outcome's result bytes (spec/30_encoding.md R66). -/
structure Answer where
  status : Status
  data : List Byte
  deriving DecidableEq, Repr

/-- The events of the observation trace (spec/00_scope.md R12). -/
inductive Event where
  /-- A byte discarded while hunting. -/
  | skip (b : Byte)
  /-- A domain byte taken as the start of a frame. -/
  | sync
  /-- A frame handed to the host. -/
  | accept (b : Frame)
  /-- A frame dropped by the address filter. -/
  | dropAddr (b : Frame)
  /-- A frame dropped by the checksum check. -/
  | dropCsum (b : Frame)
  /-- A byte written to `TX`. -/
  | tx (b : Byte)
  deriving DecidableEq, Repr

/-- The reader phase, a name for a range of `idx` and no separate state (R23). -/
inductive Phase where
  /-- No frame in progress, looking for a domain byte. -/
  | hunt
  /-- A frame in progress. -/
  | collect
  deriving DecidableEq, Repr

/-- The two reasons of `raise Drop` (R11, R140). -/
inductive DropReason where
  | addr
  | csum
  deriving DecidableEq, Repr

/-- What one turn of the reader's byte loop gives (R102). -/
inductive ByteResult where
  /-- `RX` was empty. -/
  | noFrame
  /-- A byte was taken and no frame resulted. -/
  | consumed
  /-- The byte completed an accepted frame. -/
  | frame (b : Frame)
  deriving DecidableEq, Repr

/-- The state of R20, with what stands beside it: the host port's transactions (R27, R66), the observation trace (R12),
the arrivals the collaborator will make (R40) and the model's own counter of free values. -/
structure State where
  /-- The parameters the block was instantiated with, constant (R8, R25, R26). -/
  cfg : Config
  /-- `idx`, the byte index: 0 is HUNT, 1 to 5 is COLLECT (R22, R23). -/
  idx : Fin 6
  /-- `buf[0]` to `buf[5]`, the frame buffer registers (R21). -/
  buf : Frame
  /-- `RX`, the receive queue, oldest byte first (R29, R40). -/
  rx : List Byte
  /-- `TX`, the transmit stream as a history, oldest byte first (R29, R43). -/
  tx : List Byte
  /-- The observation trace, oldest event first (R12, R31). No operation reads it. -/
  trace : List Event
  /-- The command bytes the host has presented and the block has not taken, oldest first (R66). The model's own. -/
  port : List Byte
  /-- An `RDF` is between two of its byte steps (R107, R108). The model's own. -/
  rdfActive : Bool
  /-- The answers given on the host port, oldest first (R66, R173). No operation reads it. The model's own. -/
  answers : List Answer
  /-- What the collaborator appends to `RX` before each of the coming steps (R40); the model's own. -/
  arrivals : List (List Byte)
  /-- What it appends over and over once `arrivals` is used up; empty for a line gone silent. The model's own. -/
  arrivalLoop : List (List Byte)
  /-- How many free values have been drawn. The model's own. -/
  draws : Nat
  deriving DecidableEq, Repr

/-- The state after reset (R32, R160, R161): the reader in HUNT, the parameters at their instantiation values, the `TX`
history and the trace empty. The contents of `buf` and of `RX` are not given: log entries 2 and 3. -/
def State.reset : State where
  cfg := Config.p0
  idx := 0
  buf := ⟨0xFF, 0xFF, 0xFF, 0xFF, 0xFF, 0xFF⟩
  rx := []
  tx := []
  trace := []
  port := []
  rdfActive := false
  answers := []
  arrivals := []
  arrivalLoop := []
  draws := 0

end Sys2Proof.Machine
end

