-- ==== Sys2Proof/Machine/Ops.lean ====
section
/-! DEFINITION. The named operations: the three collaborator primitives (spec/20_memory.md R41 to R43), the arrivals
(R40), the host port's answers, the trace, `raise Drop` (spec/60_exceptions.md R140), and the reader's byte step
(spec/41_transport.md R102 to R106). The block takes no exception other than a drop and has no return from one
(R142). -/

namespace Sys2Proof.Machine

/-- The number of a status (R135). -/
def Status.code (st : Status) : Byte :=
  match st with
  | .ok => 0x00
  | .noFrame => 0x01
  | .consumed => 0x02
  | .badDomain => 0x10
  | .badChecksum => 0x11
  | .badOp => 0x7F

/-- An answer as the bytes on the host port: the status byte, then the result bytes (R66). -/
def Answer.bytes (a : Answer) : List Byte := a.status.code :: a.data

/-- `emit E`: append an event to the trace (R11, R12). -/
def State.emit (s : State) (e : Event) : State := { s with trace := s.trace ++ [e] }

/-- `return (st, data)` on the host port (R11, R66). -/
def State.answer (s : State) (st : Status) (data : List Byte) : State :=
  { s with answers := s.answers ++ [⟨st, data⟩] }

/-- `buf[k] <- v` (R11, R21). -/
def State.writeBuf (s : State) (k : Fin 6) (v : Byte) : State := { s with buf := s.buf.set k v }

/-- `idx <- k` (R11, R22). -/
def State.setIdx (s : State) (k : Fin 6) : State := { s with idx := k }

/-- `RX <- q` (R11). -/
def State.setRx (s : State) (q : List Byte) : State := { s with rx := q }

/-- The whole frame buffer at once: the six registers hold the six bytes of a completed frame (R106). -/
def State.setBuf (s : State) (b : Frame) : State := { s with buf := b }

/-- An `RDF` goes on (true) or has ended (false) (R107). -/
def State.setRdf (s : State) (b : Bool) : State := { s with rdfActive := b }

/-- The command bytes left on the host port. -/
def State.setPort (s : State) (q : List Byte) : State := { s with port := q }

/-- `Avail()`: the number of bytes now in `RX` (R41). -/
def State.avail (s : State) : Nat := s.rx.length

/-- `MemRead(RX, 1)`: pop the head of `RX`; it has no meaning on an empty `RX` (R42). -/
def State.memRead (s : State) : Except Fault (Byte × State) :=
  match s.rx with
  | [] => .error .rxEmpty
  | b :: q => .ok (b, s.setRx q)

/-- `MemWrite(TX, 1, v)`: append a byte to `TX` and emit `Tx(v)`; it always succeeds at once (R43). -/
def State.memWrite (s : State) (v : Byte) : State :=
  { s with tx := s.tx ++ [v], trace := s.trace ++ [.tx v] }

/-! Arrivals. -/

/-- Is there room for one more byte beside `n` (R40)? -/
def rxRoom (c : Config) (n : Nat) : Bool :=
  match c.rxqCap with
  | none => true
  | some cap => decide (n < cap)

/-- At most `RXQ_CAP` bytes of a list (R40). -/
def rxBound (c : Config) (q : List Byte) : List Byte :=
  match c.rxqCap with
  | none => q
  | some cap => q.take cap

/-- One byte arrives: `RX <- RX ++ [b]` while there is room (R40); at a full queue the content of `RX` becomes a free
value within the bound (spec/93_implementation_defined.md U8). Log entry 6. -/
def State.arrive (s : State) (b : Byte) : State :=
  if rxRoom s.cfg s.rx.length then s.setRx (s.rx ++ [b])
  else { s with rx := rxBound s.cfg (Config.rxAfterOverflow s.draws), draws := s.draws + 1 }

/-- The bytes of one moment arrive, in order (R40). -/
def State.arriveAll (s : State) (q : List Byte) : State := q.foldl State.arrive s

/-- The arrivals that fall before the coming step: the next of `arrivals`, and once these are used up `arrivalLoop`
from its start (R40, R108). Log entry 5. -/
def State.land (s : State) : State :=
  match s.arrivals, s.arrivalLoop with
  | q :: rest, _ => { s.arriveAll q with arrivals := rest }
  | [], q :: rest => { s.arriveAll q with arrivals := rest }
  | [], [] => s

/-! The reader. -/

/-- The trace event of a drop (R12, R140). -/
def DropReason.event (r : DropReason) (b : Frame) : Event :=
  match r with
  | .addr => .dropAddr b
  | .csum => .dropCsum b

/-- `raise Drop(reason, B)`, the block's only kind of exception: emit the event, `idx <- 0`, `CONSUMED` from the byte
step; nothing is saved and control goes nowhere (R11, R140). -/
def raiseDrop (r : DropReason) (b : Frame) (s : State) : ByteResult × State :=
  (.consumed, (s.setIdx 0).emit (r.event b))

/-- What case CLOSE does with the completed frame `B`: the reader is back in HUNT with `B` in its buffer, the address
filter is applied, then in strict mode the checksum check (R106, R139). -/
def closeFrame (b : Frame) (s : State) : ByteResult × State :=
  if addrOK s.cfg b then
    if checksumPasses s.cfg b then (.frame b, ((s.setBuf b).setIdx 0).emit (.accept b))
    else raiseDrop .csum b ((s.setBuf b).setIdx 0)
  else raiseDrop .addr b ((s.setBuf b).setIdx 0)

/-- The four cases of a byte step on the byte `b` just read: SKIP, SYNC, CLOSE, STORE (R102 to R106). -/
def takeByte (b : Byte) (s : State) : ByteResult × State :=
  if s.idx = 0 then
    if b = s.cfg.domain then (.consumed, ((s.writeBuf 0 b).setIdx 1).emit .sync)
    else (.consumed, s.emit (.skip b))
  else if s.idx = 5 then closeFrame (s.buf.set 5 b) s
  else (.consumed, (s.writeBuf s.idx b).setIdx (s.idx + 1))

/-- The reader's byte step: nothing if `Avail() = 0`, else one `MemRead(RX, 1)` and its case (R102). -/
def byteStep (s : State) : Except Fault (ByteResult × State) :=
  if s.avail = 0 then .ok (.noFrame, s)
  else
    match s.memRead with
    | .error f => .error f
    | .ok (b, t) => .ok (takeByte b t)

/-- The answer of `RXB` to the result of its byte step (R102). -/
def finishRxb (r : ByteResult) (s : State) : State :=
  match r with
  | .noFrame => s.answer .noFrame []
  | .consumed => s.answer .consumed []
  | .frame b => s.answer .ok b.bytes

/-- What `RDF` makes of the result of one byte step: on an accepted frame or an empty `RX` it ends with an answer, else
it goes round again (R107). -/
def finishRdf (r : ByteResult) (s : State) : State :=
  match r with
  | .noFrame => (s.setRdf false).answer .noFrame []
  | .consumed => s.setRdf true
  | .frame b => (s.setRdf false).answer .ok b.bytes

/-- A received frame class: case CLOSE on the frame, answered to the operation that is reading it, the `RDF` in progress
or else an `RXB` (R64, R106). Log entry 7. -/
def receiveFrame (b : Frame) (s : State) : State :=
  let (r, t) := closeFrame b s
  if s.rdfActive then finishRdf r t else finishRxb r t

/-- An unassigned operation code: `BAD_OP`, no result bytes, no state changed (R68). -/
def State.badOp (s : State) : State := s.answer .badOp []

/-- The phase the reader is in: HUNT at `idx` 0, COLLECT at 1 to 5 (R23). -/
def State.phase (s : State) : Phase := if s.idx = 0 then .hunt else .collect

/-- The bytes of the frame in progress, `buf[0..idx-1]`, oldest first (R30, R33). -/
def State.held (s : State) : List Byte := s.buf.bytes.take s.idx.val

end Sys2Proof.Machine
end

