-- ==== Sys2Proof/Machine/Codec.lean ====
section
/-! DEFINITION. The codec operations CSUM, ENC, VFY, DEC, AFLT (spec/40_codec.md R80 to R86): each answers and changes
nothing else. -/

namespace Sys2Proof.Machine

/-- `CSUM b0, b1, b2, b3, b4` (R80). -/
def execCsum (b0 b1 b2 b3 b4 : Byte) (s : State) : Host.Outcome State Fault Refusal :=
  .next (s.answer .ok [csum b0 b1 b2 b3 b4])

/-- `ENC s, r, i, v` (R82). -/
def execEnc (sender receiver variableId value : Byte) (s : State) : Host.Outcome State Fault Refusal :=
  .next (s.answer .ok (buildFrame s.cfg sender receiver variableId value).bytes)

/-- `VFY B` (R83). It does not read `VERIFY_CHECKSUM` and does not test the domain. -/
def execVfy (b : Frame) (s : State) : Host.Outcome State Fault Refusal :=
  .next (s.answer .ok [boolByte (checksumOK b)])

/-- `DEC B`: the domain is tested first, then in strict mode the checksum; the addresses are not tested (R86, R134). -/
def execDec (b : Frame) (s : State) : Host.Outcome State Fault Refusal :=
  .next
    (if domainOK s.cfg b then
      if checksumPasses s.cfg b then s.answer .ok b.bytes else s.answer .badChecksum []
    else s.answer .badDomain [])

/-- `AFLT B` (R85). -/
def execAflt (b : Frame) (s : State) : Host.Outcome State Fault Refusal :=
  .next (s.answer .ok [boolByte (addrOK s.cfg b)])

end Sys2Proof.Machine
end

