-- ==== Sys2Proof/Machine/FrameClass.lean ====
section
/-! DEFINITION. The eight received frame classes (spec/30_encoding.md R64). All have the meaning of case CLOSE
(spec/41_transport.md R106): the reader's consumption of the six bytes from `RX` is their fetch (spec/00_scope.md R5),
and what stands here is what the completed frame does. -/

namespace Sys2Proof.Machine

/-- `FRM.MB1_PANELS` (R64, R106). -/
def execFrmMb1Panels (variableId value checksum : Byte) (s : State) : Host.Outcome State Fault Refusal :=
  .next (receiveFrame (receivedFrame s.cfg s.cfg.mainboard1 s.cfg.panelsBroadcast variableId value checksum) s)

/-- `FRM.MB1_PANEL1` (R64, R106). -/
def execFrmMb1Panel1 (variableId value checksum : Byte) (s : State) : Host.Outcome State Fault Refusal :=
  .next (receiveFrame (receivedFrame s.cfg s.cfg.mainboard1 s.cfg.panel1 variableId value checksum) s)

/-- `FRM.MB1_MB1` (R64, R106). -/
def execFrmMb1Mb1 (variableId value checksum : Byte) (s : State) : Host.Outcome State Fault Refusal :=
  .next (receiveFrame (receivedFrame s.cfg s.cfg.mainboard1 s.cfg.mainboard1 variableId value checksum) s)

/-- `FRM.MB1_MBS` (R64, R106). -/
def execFrmMb1Mbs (variableId value checksum : Byte) (s : State) : Host.Outcome State Fault Refusal :=
  .next (receiveFrame (receivedFrame s.cfg s.cfg.mainboard1 s.cfg.mainboardsBroadcast variableId value checksum) s)

/-- `FRM.P1_PANELS` (R64, R106). -/
def execFrmP1Panels (variableId value checksum : Byte) (s : State) : Host.Outcome State Fault Refusal :=
  .next (receiveFrame (receivedFrame s.cfg s.cfg.panel1 s.cfg.panelsBroadcast variableId value checksum) s)

/-- `FRM.P1_PANEL1` (R64, R106). -/
def execFrmP1Panel1 (variableId value checksum : Byte) (s : State) : Host.Outcome State Fault Refusal :=
  .next (receiveFrame (receivedFrame s.cfg s.cfg.panel1 s.cfg.panel1 variableId value checksum) s)

/-- `FRM.P1_MB1` (R64, R106). -/
def execFrmP1Mb1 (variableId value checksum : Byte) (s : State) : Host.Outcome State Fault Refusal :=
  .next (receiveFrame (receivedFrame s.cfg s.cfg.panel1 s.cfg.mainboard1 variableId value checksum) s)

/-- `FRM.P1_MBS` (R64, R106). -/
def execFrmP1Mbs (variableId value checksum : Byte) (s : State) : Host.Outcome State Fault Refusal :=
  .next (receiveFrame (receivedFrame s.cfg s.cfg.panel1 s.cfg.mainboardsBroadcast variableId value checksum) s)

end Sys2Proof.Machine
end

