-- ==== Sys2Proof/Machine/Transport.lean ====
section
/-! DEFINITION. The transport operations TXF, RXB, RDF, RST (spec/41_transport.md R100 to R113). -/

namespace Sys2Proof.Machine

/-- `TXF F`: the six bytes are written in index order; any six bytes, `idx` and `buf` untouched (R100). -/
def execTxf (f : Frame) (s : State) : Host.Outcome State Fault Refusal :=
  .next ((f.bytes.foldl State.memWrite s).answer .ok [])

/-- `RXB`: one byte step and its answer (R102). -/
def execRxb (s : State) : Host.Outcome State Fault Refusal :=
  match byteStep s with
  | .error f => .fault f
  | .ok (r, t) => .next (finishRxb r t)

/-- `RDF`: one turn of its loop. The byte step is the atomic step and arrivals may fall between two turns (R107, R108);
while a turn does not end the `RDF`, the coming step is its next turn. -/
def execRdf (s : State) : Host.Outcome State Fault Refusal :=
  match byteStep s with
  | .error f => .fault f
  | .ok (r, t) => .next (finishRdf r t)

/-- `RST`: `idx <- 0`; `buf`, `RX` and `TX` untouched (R113). -/
def execRst (s : State) : Host.Outcome State Fault Refusal :=
  .next ((s.setIdx 0).answer .ok [])

end Sys2Proof.Machine
end

