-- ==== Sys2Proof/Machine/Dispatch.lean ====
section
/-! DEFINITION. The dispatch: one arm per constructor of Instr, each one direct call of its meaning. -/

namespace Sys2Proof.Machine

def exec (i : Instr) (s : State) : Host.Outcome State Fault Refusal :=
  match i with
  | .csum b0 b1 b2 b3 b4 => Sys2Proof.Machine.execCsum b0 b1 b2 b3 b4 s
  | .enc sender receiver variableId value => Sys2Proof.Machine.execEnc sender receiver variableId value s
  | .vfy b => Sys2Proof.Machine.execVfy b s
  | .dec b => Sys2Proof.Machine.execDec b s
  | .aflt b => Sys2Proof.Machine.execAflt b s
  | .txf f => Sys2Proof.Machine.execTxf f s
  | .rxb => Sys2Proof.Machine.execRxb s
  | .rdf => Sys2Proof.Machine.execRdf s
  | .rst => Sys2Proof.Machine.execRst s
  | .frmMb1Panels variableId value checksum => Sys2Proof.Machine.execFrmMb1Panels variableId value checksum s
  | .frmMb1Panel1 variableId value checksum => Sys2Proof.Machine.execFrmMb1Panel1 variableId value checksum s
  | .frmMb1Mb1 variableId value checksum => Sys2Proof.Machine.execFrmMb1Mb1 variableId value checksum s
  | .frmMb1Mbs variableId value checksum => Sys2Proof.Machine.execFrmMb1Mbs variableId value checksum s
  | .frmP1Panels variableId value checksum => Sys2Proof.Machine.execFrmP1Panels variableId value checksum s
  | .frmP1Panel1 variableId value checksum => Sys2Proof.Machine.execFrmP1Panel1 variableId value checksum s
  | .frmP1Mb1 variableId value checksum => Sys2Proof.Machine.execFrmP1Mb1 variableId value checksum s
  | .frmP1Mbs variableId value checksum => Sys2Proof.Machine.execFrmP1Mbs variableId value checksum s

end Sys2Proof.Machine
end

