-- ==== Sys2Proof/Machine/Step.lean ====
section
/-! DEFINITION. The step: the arrivals that fall before it, then one turn of the `RDF` in progress or the next command of
the host port (spec/00_scope.md R7, spec/20_memory.md R40, spec/41_transport.md R108); and the placing of a table word
where the coming step takes it from. -/

namespace Sys2Proof.Machine

/-- What the block does in a step, once the arrivals have landed. -/
def blockStep (s : State) : Host.Outcome State Fault Refusal :=
  if s.rdfActive then exec .rdf s
  else
    match fetch s.port with
    | .idle => .next s
    | .unassigned rest => .next (s.setPort rest).badOp
    | .run i rest => exec i (s.setPort rest)

/-- One step of the machine. -/
def step (s : State) : Host.Outcome State Fault Refusal := blockStep s.land

/-- `s` with a table word where the coming step takes its instruction from. An operation is presented on the host port,
ahead of what stands there. A received frame is placed so that the coming byte step takes its sixth byte: the first five
collected, the sixth at the head of `RX`, `RXB` on the host port, and nothing arriving before it. Log entry 9. -/
def State.withFetchWord (s : State) (nbits w : Nat) : State :=
  if isFrameWord nbits then
    { s with
      idx := 5
      buf := (wordFrame w).set 5 s.buf.checksum
      rx := (wordFrame w).checksum :: s.rx
      port := Op.code .rxb :: s.port
      rdfActive := false
      arrivals := [] :: s.arrivals }
  else { s with port := tableCommand nbits w ++ s.port, rdfActive := false }

end Sys2Proof.Machine
end

