-- ==== Sys2Proof/Machine/Deframe.lean ====
section
/-! DEFINITION. The reader as a function on byte streams (spec/41_transport.md R109). -/

namespace Sys2Proof.Machine

/-- `Deframe`: from the bytes held and a byte sequence to the accepted frames and the bytes then held (R109). The rule
defines it for at most five bytes held; with more, a byte is only added. -/
def deframe (c : Config) (h : List Byte) (q : List Byte) : List Frame × List Byte :=
  match q with
  | [] => ([], h)
  | b :: q =>
    match h with
    | [] => if b = c.domain then deframe c [b] q else deframe c [] q
    | [b0, b1, b2, b3, b4] =>
      let r := deframe c [] q
      if accept c ⟨b0, b1, b2, b3, b4, b⟩ then (⟨b0, b1, b2, b3, b4, b⟩ :: r.1, r.2) else r
    | h => deframe c (h ++ [b]) q

end Sys2Proof.Machine
end

