-- ==== Sys2Proof/Safety.lean ====
section
/-! DEFINITION. What counts as a safe state, in the terms the claims use: the invariants of spec/10_state.md R33, the bound
of the receive queue (spec/20_memory.md R40), and the trace as a true record of what the block did (spec/00_scope.md
R12); and the states that the host cannot tell apart (R30, R33). -/

namespace Sys2Proof.Machine

/-- The byte of a `Tx` event. -/
def Event.txByte? (e : Event) : Option Byte :=
  match e with
  | .tx b => some b
  | .skip _ => none
  | .sync => none
  | .accept _ => none
  | .dropAddr _ => none
  | .dropCsum _ => none

/-- An event is justified under the parameters when the condition of its rule held: a skipped byte is not `DOMAIN`
(R131), an accepted frame is accepted (R64), a frame dropped by address has an unrecognized address (R132), a frame
dropped by checksum has recognized addresses and in strict mode a wrong checksum (R133). -/
def Event.justified (c : Config) (e : Event) : Bool :=
  match e with
  | .skip b => b != c.domain
  | .sync => true
  | .accept b => domainOK c b && Sys2Proof.Machine.accept c b
  | .dropAddr b => domainOK c b && !addrOK c b
  | .dropCsum b => domainOK c b && addrOK c b && c.verifyChecksum && !checksumOK b
  | .tx _ => true

/-- While a frame is in progress its byte 0 is `DOMAIN` (R33 (b)). -/
def State.HeldDomain (s : State) : Prop := s.phase = .collect → s.buf.domain = s.cfg.domain

/-- `RX` keeps the bound of the receive queue (R40). -/
def State.RxBounded (s : State) : Prop := ∀ cap, s.cfg.rxqCap = some cap → s.rx.length ≤ cap

/-- Every event of the trace is justified. -/
def State.TraceJustified (s : State) : Prop := ∀ e ∈ s.trace, Event.justified s.cfg e = true

/-- The `TX` history is what the `Tx` events say, in order (R43). -/
def State.TxRecorded (s : State) : Prop := s.tx = s.trace.filterMap Event.txByte?

/-- The invariant of the machine. That `idx` is at most 5 (R33 (a)) is its type. -/
structure State.Inv (s : State) : Prop where
  heldDomain : s.HeldDomain
  rxBounded : s.RxBounded
  traceJustified : s.TraceJustified
  txRecorded : s.TxRecorded

/-- No byte arrives any more (the condition of R108 and R110). -/
def State.Quiet (s : State) : Prop := s.arrivals = [] ∧ s.arrivalLoop = []

/-- The bytes that a schedule of arrivals brings before `n` steps, in order (R40). -/
def arrivalsOf (n : Nat) (arrivals loop : List (List Byte)) : List Byte :=
  match n, arrivals, loop with
  | 0, _, _ => []
  | n + 1, q :: rest, loop => q ++ arrivalsOf n rest loop
  | n + 1, [], q :: rest => q ++ arrivalsOf n rest (q :: rest)
  | _ + 1, [], [] => []

/-- The frame of an `Accept` event. -/
def Event.accepted? (e : Event) : Option Frame :=
  match e with
  | .accept b => some b
  | .tx _ => none
  | .skip _ => none
  | .sync => none
  | .dropAddr _ => none
  | .dropCsum _ => none

/-- The frames handed to the host, in order, as the trace records them (R12, R173). -/
def State.acceptedFrames (s : State) : List Frame := s.trace.filterMap Event.accepted?

/-- Two states that differ at most in buffer registers that hold no byte of the frame in progress (R30, R33 (d)). -/
def State.SameVisible (s t : State) : Prop := { s with buf := t.buf } = t ∧ s.held = t.held

/-- The five byte parameters tell the eight frame classes apart. No rule assumes it (R8); the received frame classes of
R64 overlap without it. -/
def addressesDistinct (c : Config) : Prop :=
  c.mainboard1 ≠ c.panel1 ∧ c.mainboard1 ≠ c.panelsBroadcast ∧ c.mainboard1 ≠ c.mainboardsBroadcast ∧
    c.panel1 ≠ c.panelsBroadcast ∧ c.panel1 ≠ c.mainboardsBroadcast ∧ c.panelsBroadcast ≠ c.mainboardsBroadcast

end Sys2Proof.Machine
end

