-- ==== Sys2Proof/WellFormed.lean ====
section
/-! DEFINITION. Which instructions are well formed: every operation with any operand bytes (spec/40_codec.md R82,
spec/41_transport.md R100: nothing is checked), and a received frame class whose checksum byte meets the class's
constraint (spec/30_encoding.md R64, and the `c` field of the FRM rows of spec/opcode_table.json). -/

namespace Sys2Proof

open Sys2Proof.Machine

/-- A frame class is an accepted frame only if, in strict mode, its checksum byte is the sum of the other five (R64);
every operation is well formed. -/
def Instr.wellFormed (c : Config) (i : Instr) : Bool :=
  match i.frame? c with
  | none => true
  | some b => checksumPasses c b

end Sys2Proof
end

