-- ==== Sys2Proof/Certificates/Slice0/Obligations.lean ====
section
/-! DEFINITION. The statements for the provers. -/

open Sys2Proof Sys2Proof.Machine

/-! The codec operations (spec/40_codec.md). -/

/-- R80: `CSUM` answers the natural sum of its five operands modulo 256, and changes nothing else. -/
def Obligations.CsumAnswersSumModulo256 : Prop :=
  ∀ (s : State) (b0 b1 b2 b3 b4 : Byte),
    exec (.csum b0 b1 b2 b3 b4) s =
      .next { s with
        answers := s.answers ++
          [⟨.ok, [BitVec.ofNat 8 (b0.toNat + b1.toNat + b2.toNat + b3.toNat + b4.toNat)]⟩] }

/-- R81: the laws (b) to (f) of the checksum sum; (a) is the type of its operands. -/
def Obligations.ChecksumSumLaws : Prop :=
  (∀ b0 b1 b2 b3 b4 : Byte,
    (csum b0 b1 b2 b3 b4).toNat = (b0.toNat + b1.toNat + b2.toNat + b3.toNat + b4.toNat) % 256) ∧
  (∀ b0 b1 b2 b3 b4 : Byte, csum b0 b1 b2 b3 b4 = b0 + b1 + b2 + b3 + b4) ∧
  (∀ b0 b1 b2 b3 b4 c0 c1 c2 c3 c4 : Byte,
    [b0, b1, b2, b3, b4].Perm [c0, c1, c2, c3, c4] → csum b0 b1 b2 b3 b4 = csum c0 c1 c2 c3 c4) ∧
  (∀ (f : Frame) (k : Fin 6) (v : Byte), k ≠ 5 → v ≠ f.get k → frameCsum (f.set k v) ≠ frameCsum f) ∧
  (∀ (f : Frame) (j k : Fin 6), j ≠ 5 → k ≠ 5 → j ≠ k →
    frameCsum ((f.set j (f.get j + 1)).set k (f.get k - 1)) = frameCsum f)

/-- R82: `ENC` answers the domain byte, its four operands unchanged and their sum with it modulo 256, for every four
bytes, and changes nothing else. -/
def Obligations.EncBuildsFrame : Prop :=
  ∀ (s : State) (a r i v : Byte),
    exec (.enc a r i v) s =
      .next { s with
        answers := s.answers ++
          [⟨.ok, [s.cfg.domain, a, r, i, v,
            BitVec.ofNat 8 (s.cfg.domain.toNat + a.toNat + r.toNat + i.toNat + v.toNat)]⟩] }

/-- R83: `VFY` answers 0x01 when byte 5 is the sum of bytes 0 to 4 modulo 256 and 0x00 when not, in either mode and
whatever the domain byte, and changes nothing else. -/
def Obligations.VfyTestsChecksum : Prop :=
  ∀ (s : State) (b : Frame),
    exec (.vfy b) s =
      .next { s with
        answers := s.answers ++
          [⟨.ok, [if b.checksum.toNat =
              (b.domain.toNat + b.sender.toNat + b.receiver.toNat + b.variableId.toNat + b.value.toNat) % 256
            then 0x01 else 0x00]⟩] }

/-- R85: `AFLT` answers 0x01 exactly when the sender is one of the two and the receiver one of the four recognized
addresses, and changes nothing else. -/
def Obligations.AfltTestsAddresses : Prop :=
  ∀ (s : State) (b : Frame),
    exec (.aflt b) s =
      .next { s with
        answers := s.answers ++
          [⟨.ok, [if b.sender ∈ [s.cfg.mainboard1, s.cfg.panel1] ∧
              b.receiver ∈ [s.cfg.panelsBroadcast, s.cfg.panel1, s.cfg.mainboard1, s.cfg.mainboardsBroadcast]
            then 0x01 else 0x00]⟩] }

/-- R86: `DEC` tests the domain, then in strict mode the checksum, and else answers the six bytes; it does not test the
addresses and changes nothing else. -/
def Obligations.DecTestsDomainThenChecksum : Prop :=
  ∀ (s : State) (b : Frame),
    exec (.dec b) s =
      .next { s with
        answers := s.answers ++
          [if b.domain ≠ s.cfg.domain then ⟨.badDomain, []⟩
           else if s.cfg.verifyChecksum = true ∧
              b.checksum ≠ csum b.domain b.sender b.receiver b.variableId b.value then ⟨.badChecksum, []⟩
           else ⟨.ok, [b.domain, b.sender, b.receiver, b.variableId, b.value, b.checksum]⟩] }

/-- R20: the five codec operations change nothing but the answers on the host port, in every state. -/
def Obligations.CodecOperationsOnlyAnswer : Prop :=
  ∀ (s : State) (i : Instr),
    ((∃ b0 b1 b2 b3 b4, i = .csum b0 b1 b2 b3 b4) ∨ (∃ a r v x, i = .enc a r v x) ∨ (∃ b, i = .vfy b) ∨
      (∃ b, i = .dec b) ∨ (∃ b, i = .aflt b)) →
    ∃ a : Answer, exec i s = .next { s with answers := s.answers ++ [a] }

/-- R88: what `ENC` answers is a frame with the four fields and the domain byte; `DEC` answers it back in both modes;
`VFY` answers true; `AFLT` answers true exactly for a recognized sender and receiver, and exactly then the reader makes
a frame of its six bytes. -/
def Obligations.EncodeThenDecodeRoundTrip : Prop :=
  ∀ (s : State) (a r i v : Byte), ∃ f : Frame,
    exec (.enc a r i v) s = .next { s with answers := s.answers ++ [⟨.ok, f.bytes⟩] } ∧
    f.domain = s.cfg.domain ∧ f.sender = a ∧ f.receiver = r ∧ f.variableId = i ∧ f.value = v ∧
    (∀ t : State, t.cfg.domain = s.cfg.domain →
      exec (.dec f) t = .next { t with answers := t.answers ++ [⟨.ok, f.bytes⟩] }) ∧
    (∀ t : State, exec (.vfy f) t = .next { t with answers := t.answers ++ [⟨.ok, [0x01]⟩] }) ∧
    (∀ t : State, t.cfg = s.cfg →
      exec (.aflt f) t = .next { t with
        answers := t.answers ++
          [⟨.ok, [boolByte (senderOK s.cfg a && receiverOK s.cfg r)]⟩] }) ∧
    deframe s.cfg [] f.bytes = (if senderOK s.cfg a && receiverOK s.cfg r then [f] else [], [])

/-- R89: changing any one byte of an encoded frame makes `VFY` answer false; adding one to a byte before the checksum
and taking one from another is not found. -/
def Obligations.SingleByteMutationFailsVfy : Prop :=
  ∀ (c : Config) (a r i v : Byte) (t : State),
    (∀ (k : Fin 6) (b : Byte), b ≠ (buildFrame c a r i v).get k →
      exec (.vfy ((buildFrame c a r i v).set k b)) t =
        .next { t with answers := t.answers ++ [⟨.ok, [0x00]⟩] }) ∧
    (∀ j k : Fin 6, j ≠ 5 → k ≠ 5 → j ≠ k →
      exec (.vfy (((buildFrame c a r i v).set j ((buildFrame c a r i v).get j + 1)).set k
        ((buildFrame c a r i v).get k - 1))) t =
        .next { t with answers := t.answers ++ [⟨.ok, [0x01]⟩] })

/-! The transport operations (spec/41_transport.md). -/

/-- R42: `MemRead(RX, 1)` gives the head of `RX` and leaves its tail; on an empty `RX` it has no step. -/
def Obligations.MemReadPopsHead : Prop :=
  ∀ s : State,
    (∀ b q, s.rx = b :: q → s.memRead = .ok (b, { s with rx := q })) ∧
    (s.rx = [] → s.memRead = .error .rxEmpty)

/-- R100: `TXF` appends the six bytes to `TX` in wire order, emits a `Tx` event for each, answers `OK`, and changes
nothing else, for any six bytes and at any `idx`. -/
def Obligations.TxfWritesSixBytes : Prop :=
  ∀ (s : State) (f : Frame),
    exec (.txf f) s =
      .next { s with
        tx := s.tx ++ [f.domain, f.sender, f.receiver, f.variableId, f.value, f.checksum]
        trace := s.trace ++ [.tx f.domain, .tx f.sender, .tx f.receiver, .tx f.variableId, .tx f.value, .tx f.checksum]
        answers := s.answers ++ [⟨.ok, []⟩] }

/-- R101: `ENC` then `TXF` appends the encoded frame to `TX`, and changes nothing else but the trace and the answers. -/
def Obligations.SendAppendsEncodedFrame : Prop :=
  ∀ (s : State) (a r i v : Byte), ∃ (f : Frame) (t : State),
    exec (.enc a r i v) s = .next t ∧ t.answers = s.answers ++ [⟨.ok, f.bytes⟩] ∧
    exec (.txf f) t =
      .next { s with
        tx := s.tx ++ [s.cfg.domain, a, r, i, v, csum s.cfg.domain a r i v]
        trace := s.trace ++ f.bytes.map Event.tx
        answers := s.answers ++ [⟨.ok, f.bytes⟩, ⟨.ok, []⟩] }

/-- R102, its first line: `RXB` on an empty `RX` answers `NO_FRAME` and changes nothing else, whatever `idx` is. -/
def Obligations.RxbOnEmptyQueueAnswersNoFrame : Prop :=
  ∀ s : State, s.rx = [] → exec .rxb s = .next { s with answers := s.answers ++ [⟨.noFrame, []⟩] }

/-- R103: in HUNT a byte that is not `DOMAIN` is discarded. -/
def Obligations.RxbSkipsNoise : Prop :=
  ∀ (s : State) (b : Byte) (q : List Byte), s.idx = 0 → s.rx = b :: q → b ≠ s.cfg.domain →
    exec .rxb s =
      .next { s with rx := q, trace := s.trace ++ [.skip b], answers := s.answers ++ [⟨.consumed, []⟩] }

/-- R104: in HUNT a byte equal to `DOMAIN` starts a frame. -/
def Obligations.RxbSyncsOnDomain : Prop :=
  ∀ (s : State) (b : Byte) (q : List Byte), s.idx = 0 → s.rx = b :: q → b = s.cfg.domain →
    exec .rxb s =
      .next { s with
        rx := q
        buf := { s.buf with domain := b }
        idx := 1
        trace := s.trace ++ [.sync]
        answers := s.answers ++ [⟨.consumed, []⟩] }

/-- R105: at `idx` 1 to 4 the byte is stored in `buf[idx]` whatever its value, no event is emitted, and `idx` moves on by
one. -/
def Obligations.RxbStoresInsideFrame : Prop :=
  ∀ (s : State) (b : Byte) (q : List Byte) (k : Fin 6), 1 ≤ s.idx.val → s.idx.val ≤ 4 → k.val = s.idx.val + 1 →
    s.rx = b :: q →
    ∃ f : Frame, f.get s.idx = b ∧ (∀ j : Fin 6, j ≠ s.idx → f.get j = s.buf.get j) ∧
      exec .rxb s = .next { s with rx := q, buf := f, idx := k, answers := s.answers ++ [⟨.consumed, []⟩] }

/-- R106: at `idx` 5 the byte completes the frame; the reader is back in HUNT; the address filter is applied, then in
strict mode the checksum check; only a frame that passes is answered. -/
def Obligations.RxbCompletesFrame : Prop :=
  ∀ (s : State) (b : Byte) (q : List Byte) (f : Frame), s.idx = 5 → s.rx = b :: q →
    f = { s.buf with checksum := b } →
    exec .rxb s =
      .next { s with
        rx := q
        buf := f
        idx := 0
        trace := s.trace ++
          [if addrOK s.cfg f = false then .dropAddr f
           else if s.cfg.verifyChecksum = true ∧ f.checksum ≠ frameCsum f then .dropCsum f
           else .accept f]
        answers := s.answers ++
          [if addrOK s.cfg f = true ∧ (s.cfg.verifyChecksum = true → f.checksum = frameCsum f) then ⟨.ok, f.bytes⟩
           else ⟨.consumed, []⟩] }

/-- R33 (c), one byte step of it: the byte taken is the newest of the bytes held, unless it ended a frame or was
skipped. -/
def Obligations.TakenByteIsNewestHeld : Prop :=
  ∀ (s : State) (b : Byte) (q : List Byte), s.rx = b :: q →
    ∃ t, exec .rxb s = .next t ∧ t.rx = q ∧ (t.idx ≠ 0 → t.held = s.held ++ [b])

/-- R111: the whole graph of `idx`. A byte moves the reader as the table says and a frame comes out only at `idx` 5;
`RST` moves it to 0; an empty queue and every other operation leave it. -/
def Obligations.ReaderStateGraph : Prop :=
  (∀ (s : State) (b : Byte) (q : List Byte), s.rx = b :: q →
    ∃ t, exec .rxb s = .next t ∧
      t.idx = (if s.idx = 0 then (if b = s.cfg.domain then 1 else 0) else if s.idx = 5 then 0 else s.idx + 1) ∧
      t.answers = s.answers ++
        [if s.idx = 5 ∧ accept s.cfg (s.buf.set 5 b) = true then ⟨.ok, (s.buf.set 5 b).bytes⟩
         else ⟨.consumed, []⟩]) ∧
  (∀ s : State, s.rx = [] → ∃ t, exec .rxb s = .next t ∧ t.idx = s.idx) ∧
  (∀ s : State, ∃ t u, exec .rxb s = .next t ∧ exec .rdf s = .next u ∧ u.idx = t.idx) ∧
  (∀ s : State, ∃ t, exec .rst s = .next t ∧ t.idx = 0) ∧
  (∀ (s : State) (i : Instr), i ≠ .rxb → i ≠ .rdf → i ≠ .rst → i.frame? s.cfg = none →
    ∃ t, exec i s = .next t ∧ t.idx = s.idx)

/-- R107, its first line: `RDF` on an empty `RX` ends with `NO_FRAME`, and nothing else of the state changes but that
the `RDF` is over. -/
def Obligations.RdfOnEmptyQueueAnswersNoFrame : Prop :=
  ∀ s : State, s.rx = [] →
    exec .rdf s = .next { s with rdfActive := false, answers := s.answers ++ [⟨.noFrame, []⟩] }

/-- R107: a turn of `RDF` does what `RXB` does; it goes round again, without an answer, exactly when `RXB` answers
`CONSUMED`, and ends with the answer of `RXB` when not. -/
def Obligations.RdfTurnFollowsRxb : Prop :=
  ∀ s : State, ∃ t, exec .rxb s = .next t ∧
    ((t.answers = s.answers ++ [⟨.consumed, []⟩] ∧
        exec .rdf s = .next { t with answers := s.answers, rdfActive := true }) ∨
      (s.rx = [] ∧ t.answers = s.answers ++ [⟨.noFrame, []⟩] ∧ exec .rdf s = .next { t with rdfActive := false }) ∨
      (∃ f : Frame, t.answers = s.answers ++ [⟨.ok, f.bytes⟩] ∧ exec .rdf s = .next { t with rdfActive := false }))

/-- R106, R107: a turn of `RDF` that completes an accepted frame ends the `RDF` with it and leaves the rest of `RX`. -/
def Obligations.RdfReturnsAcceptedFrame : Prop :=
  ∀ (s : State) (b : Byte) (q : List Byte) (f : Frame), s.idx = 5 → s.rx = b :: q →
    f = { s.buf with checksum := b } → accept s.cfg f = true →
    exec .rdf s =
      .next { s with
        rx := q
        buf := f
        idx := 0
        rdfActive := false
        trace := s.trace ++ [.accept f]
        answers := s.answers ++ [⟨.ok, f.bytes⟩] }

/-- R113: `RST` sets `idx` to 0 and answers `OK`; `buf`, `RX`, `TX` and everything else stay. -/
def Obligations.RstReturnsToHunt : Prop :=
  ∀ s : State, exec .rst s = .next { s with idx := 0, answers := s.answers ++ [⟨.ok, []⟩] }

/-! The received frame classes (spec/30_encoding.md R64). -/

/-- R64: six bytes are an accepted frame, by the four conditions of the rule, exactly when they are the frame of one of
the eight classes with a checksum byte that the mode allows; and the class of a frame has no effect on what the block
does with it. -/
def Obligations.AcceptedFramesAreTheEightClasses : Prop :=
  (∀ (c : Config) (b : Frame),
    (b.domain = c.domain ∧ (b.sender = c.mainboard1 ∨ b.sender = c.panel1) ∧
      (b.receiver = c.panelsBroadcast ∨ b.receiver = c.panel1 ∨ b.receiver = c.mainboard1 ∨
        b.receiver = c.mainboardsBroadcast) ∧
      (c.verifyChecksum = true → b.checksum = csum b.domain b.sender b.receiver b.variableId b.value)) ↔
    ∃ i : Instr, i.frame? c = some b ∧ i.wellFormed c = true) ∧
  ∀ (s : State) (i j : Instr) (b : Frame), i.frame? s.cfg = some b → j.frame? s.cfg = some b → exec i s = exec j s

/-- R64, R106: each of the eight frame classes with a right checksum (any checksum in lenient mode) completes: the frame
is accepted, the reader is back in HUNT with it in its buffer, the frame is the answer, the `RDF` that read it, if one
was in progress, is over, and nothing else changes. The form of the instruction is log entry 7. -/
def Obligations.FrameClassesAreAccepted : Prop :=
  ∀ (s : State) (i : Instr) (b : Frame), i.frame? s.cfg = some b → i.wellFormed s.cfg = true →
    exec i s =
      .next { s with
        buf := b
        idx := 0
        rdfActive := false
        trace := s.trace ++ [.accept b]
        answers := s.answers ++ [⟨.ok, b.bytes⟩] }

/-- R106, R133, R140: a frame class with a wrong checksum in strict mode is dropped: the event, the reader in HUNT,
`CONSUMED` to an `RXB` and nothing to an `RDF`, which goes on. The form of the instruction is log entry 7. -/
def Obligations.FrameClassesDroppedOnWrongChecksum : Prop :=
  ∀ (s : State) (i : Instr) (b : Frame), i.frame? s.cfg = some b → s.cfg.verifyChecksum = true →
    b.checksum ≠ csum b.domain b.sender b.receiver b.variableId b.value →
    exec i s =
      .next { s with
        buf := b
        idx := 0
        trace := s.trace ++ [.dropCsum b]
        answers := s.answers ++ (if s.rdfActive then [] else [⟨.consumed, []⟩]) }

/-- R64, R106: the byte step that completes six bytes of a frame class does what that class's instruction does, for an
`RXB` and for a turn of `RDF`. The form of the instruction is log entry 7. -/
def Obligations.ByteStepRunsFrameClass : Prop :=
  ∀ (s : State) (b : Byte) (q : List Byte) (i : Instr), s.idx = 5 → s.rx = b :: q →
    classify s.cfg (s.buf.set 5 b) = .ok i →
    (s.rdfActive = false → exec .rxb s = exec i { s with rx := q }) ∧
    exec .rdf s = exec i { s with rx := q, rdfActive := true }

/-! The step. -/

/-- R66, R67: with no `RDF` in progress, when the command bytes on the host port decode to an instruction, the step is
`exec` of it, in the state in which the arrivals before the step have landed and the command's bytes are taken. -/
def Obligations.StepRunsDecodedCommand : Prop :=
  ∀ (s : State) (i : Instr) (rest : List Byte), s.rdfActive = false → decodeCommand s.port = .ok (i, rest) →
    step s = exec i { s.land with port := rest }

/-- R107, R108: while an `RDF` is in progress the step is its next turn, and the host port is not looked at. -/
def Obligations.StepContinuesRdf : Prop :=
  ∀ s : State, s.rdfActive = true → step s = exec .rdf s.land

/-- The model's reading of log entry 7, that a frame class is an instruction which the sixth byte runs: with `RXB` on the
host port and six bytes of a frame class at hand, the step is `exec` of that class on the rest of the queue. No rule gives
a frame that form; what the class does is case CLOSE of the byte step, R106. -/
def Obligations.StepRunsDecodedFrame : Prop :=
  ∀ (s : State) (b : Byte) (q rest : List Byte) (i : Instr), s.rdfActive = false →
    decodeCommand s.port = .ok (.rxb, rest) → s.idx = 5 → s.land.rx = b :: q →
    classify s.cfg (s.buf.set 5 b) = .ok i →
    step s = exec i { s.land with port := rest, rx := q }

/-- The model's choice of log entry 4: with no whole command on the host port only the arrivals land. -/
def Obligations.StepWaitsForWholeCommand : Prop :=
  ∀ s : State, s.rdfActive = false →
    (decodeCommand s.port = .error .noBytes ∨ decodeCommand s.port = .error .truncated) →
    step s = .next s.land

/-- R68: every code outside the table of R67 is refused by the decoder, answered `BAD_OP` without result bytes, takes no
operand bytes and changes no state. -/
def Obligations.UnassignedCodeAnswersBadOp : Prop :=
  ∀ (s : State) (code : Byte) (rest : List Byte), s.rdfActive = false → s.port = code :: rest →
    code ∉ ([0x01, 0x02, 0x03, 0x04, 0x05, 0x06, 0x07, 0x08, 0x0F] : List Byte) →
    decodeCommand s.port = .error (.badOp code) ∧
    step s = .next { s.land with port := rest, answers := s.answers ++ [⟨.badOp, []⟩] }

/-- R135: the numbers of the statuses, as the first byte of an answer. -/
def Obligations.StatusByteLeadsAnswer : Prop :=
  ∀ d : List Byte,
    (Answer.mk .ok d).bytes = 0x00 :: d ∧ (Answer.mk .noFrame d).bytes = 0x01 :: d ∧
    (Answer.mk .consumed d).bytes = 0x02 :: d ∧ (Answer.mk .badDomain d).bytes = 0x10 :: d ∧
    (Answer.mk .badChecksum d).bytes = 0x11 :: d ∧ (Answer.mk .badOp d).bytes = 0x7F :: d

/-- R40: bytes that the queue has room for land at the tail of `RX` in order, and change nothing else, whether they are
the next of the schedule or the first of its loop. The schedule is log entry 5. -/
def Obligations.ArrivalsAppendInOrder : Prop :=
  ∀ (s : State) (q : List Byte) (rest : List (List Byte)),
    (s.arrivals = q :: rest ∨ s.arrivals = [] ∧ s.arrivalLoop = q :: rest) →
    (∀ cap, s.cfg.rxqCap = some cap → s.rx.length + q.length ≤ cap) →
    s.land = { s with rx := s.rx ++ q, arrivals := rest }

/-- The model's form of R40 and U8, log entry 6: a byte that arrives at a full queue leaves in `RX` any content within the
bound, counts one free value, and changes nothing else. -/
def Obligations.OverflowTouchesOnlyTheQueue : Prop :=
  ∀ (s : State) (b : Byte) (cap : Nat), s.cfg.rxqCap = some cap → cap ≤ s.rx.length →
    ∃ q : List Byte, q.length ≤ cap ∧ s.arrive b = { s with rx := q, draws := s.draws + 1 }

/-! Whole-machine rules. -/

/-- R137, R166: nothing the block does is fatal: every instruction in every state, and every step, gives a next state. -/
def Obligations.NothingStopsTheMachine : Prop :=
  (∀ (i : Instr) (s : State), ∃ t, exec i s = .next t) ∧ (∀ s : State, ∃ t, step s = .next t)

/-- R25, R26: no instruction and no step writes a parameter. -/
def Obligations.ParametersNeverChange : Prop :=
  (∀ (i : Instr) (s t : State), exec i s = .next t → t.cfg = s.cfg) ∧
  (∀ s t : State, step s = .next t → t.cfg = s.cfg)

/-- R32, the values the rule gives: `idx` is 0, the `TX` history and the trace are empty. -/
def Obligations.ResetIsHuntWithEmptyHistories : Prop :=
  State.reset.idx = 0 ∧ State.reset.tx = [] ∧ State.reset.trace = [] ∧ State.reset.held = []

/-- R33, R40: the invariant holds after reset. -/
def Obligations.InvariantAtReset : Prop := State.reset.Inv

/-- R33 (b), R40, R43, R64, R131 to R133: every step keeps the invariant, from every state that meets it. -/
def Obligations.EveryStepKeepsInvariant : Prop :=
  ∀ s t : State, s.Inv → step s = .next t → t.Inv

/-- R33 (d), R30: buffer registers that hold no byte of the frame in progress cannot be told apart: two states that differ
only there step to two states that differ at most there. The reset contents of `buf` (log entry 2) show nowhere. -/
def Obligations.StaleBufferNeverObserved : Prop :=
  ∀ s t : State, s.SameVisible t →
    ∃ s' t', step s = .next s' ∧ step t = .next t' ∧ s'.SameVisible t'

/-- R43, R52: a step only appends to `TX`, to the trace and to the answers, in order. -/
def Obligations.HistoriesOnlyGrow : Prop :=
  ∀ s t : State, step s = .next t →
    ∃ (out : List Byte) (events : List Event) (given : List Answer),
      t.tx = s.tx ++ out ∧ t.trace = s.trace ++ events ∧ t.answers = s.answers ++ given ∧
      out = events.filterMap Event.txByte? ∧ given.length ≤ 1

/-- R87, R169: in strict mode, while byte 0 of a frame in progress is `DOMAIN` (R33 (b)), a frame that `RXB` or a turn of
`RDF` answers is well formed. -/
def Obligations.StrictReaderAnswersWellFormed : Prop :=
  ∀ (s t : State) (d : List Byte), s.HeldDomain → s.cfg.verifyChecksum = true →
    (exec .rxb s = .next t ∨ exec .rdf s = .next t) → t.answers = s.answers ++ [⟨.ok, d⟩] →
    ∃ f : Frame, d = f.bytes ∧ wellFormedFrame s.cfg f = true

/-- R169: in lenient mode the reader makes a frame of any six bytes that start with `DOMAIN` and carry recognized
addresses, whatever the checksum byte, and of no other six bytes that start with `DOMAIN`. -/
def Obligations.LenientReaderIgnoresChecksum : Prop :=
  ∀ (c : Config) (b : Frame), c.verifyChecksum = false → b.domain = c.domain →
    deframe c [] b.bytes = (if addrOK c b then [b] else [], [])

/-! The reader as a function on byte streams. -/

/-- R109, R110: a stream taken in two pieces gives the frames of the first piece and then those of the second. -/
def Obligations.DeframeSplitsAnywhere : Prop :=
  ∀ (c : Config) (h p q : List Byte),
    deframe c h (p ++ q) =
      ((deframe c h p).1 ++ (deframe c (deframe c h p).2 q).1, (deframe c (deframe c h p).2 q).2)

/-- R109: a byte step is one clause of `Deframe`: what the stream still gives after it, with the frame it answered put in
front, is what the stream gave before it. -/
def Obligations.ByteStepIsOneDeframeClause : Prop :=
  ∀ (s : State) (b : Byte) (q : List Byte), s.rx = b :: q →
    ∃ (t : State) (fs : List Frame), exec .rxb s = .next t ∧ t.rx = q ∧ fs.length ≤ 1 ∧
      t.answers = s.answers ++ [match fs with | [] => ⟨.consumed, []⟩ | f :: _ => ⟨.ok, f.bytes⟩] ∧
      deframe s.cfg s.held (b :: q) = (fs ++ (deframe s.cfg t.held q).1, (deframe s.cfg t.held q).2)

/-- R110, first part: with no byte arriving, `RDF` invoked again and again until it answers `NO_FRAME` answers the frames
of `Deframe`, in order, and leaves its held bytes and an empty `RX`. The host port holds one `RDF` for each frame and one
more. -/
def Obligations.DrainingAnswersDeframe : Prop :=
  ∀ s : State, s.Quiet → s.rdfActive = false →
    s.port = List.replicate ((deframe s.cfg s.held s.rx).1.length + 1) 0x08 →
    ∃ t : State, Host.Core.run core (s.rx.length + 1) s = .next t ∧
      t.answers = s.answers ++ (deframe s.cfg s.held s.rx).1.map (fun f => ⟨.ok, f.bytes⟩) ++ [⟨.noFrame, []⟩] ∧
      t.held = (deframe s.cfg s.held s.rx).2 ∧ t.rx = [] ∧ t.port = [] ∧ t.rdfActive = false

/-- R110, second part: over any number of steps, any arrivals at an unbounded queue and any host commands without the
byte 0x0F (`RST`), the frames accepted are those of `Deframe` on the bytes consumed, whatever the host asked and however
the bytes were batched. -/
def Obligations.AcceptedFramesDependOnBytesOnly : Prop :=
  ∀ (n : Nat) (s : State), s.cfg.rxqCap = none → (0x0F : Byte) ∉ s.port →
    ∃ (t : State) (taken : List Byte), Host.Core.run core n s = .next t ∧
      s.rx ++ arrivalsOf n s.arrivals s.arrivalLoop = taken ++ t.rx ∧
      t.acceptedFrames = s.acceptedFrames ++ (deframe s.cfg s.held taken).1 ∧
      t.held = (deframe s.cfg s.held taken).2

/-- R108, first part: with no byte arriving, an `RDF` in progress ends within one step more than there are bytes in `RX`,
with the first frame of `Deframe`, or with `NO_FRAME` on an empty `RX` if there is none. -/
def Obligations.RdfEndsWhenNothingArrives : Prop :=
  ∀ s : State, s.Quiet → s.rdfActive = true →
    ∃ (k : Nat) (t : State), k ≤ s.rx.length + 1 ∧ Host.Core.run core k s = .next t ∧ t.rdfActive = false ∧
      ((deframe s.cfg s.held s.rx).1 = [] ∧ t.rx = [] ∧ t.answers = s.answers ++ [⟨.noFrame, []⟩] ∨
        ∃ f fs, (deframe s.cfg s.held s.rx).1 = f :: fs ∧ t.answers = s.answers ++ [⟨.ok, f.bytes⟩] ∧
          (deframe s.cfg t.held t.rx).1 = fs)

/-- R108, second part: noise that arrives as fast as the block takes it keeps an `RDF` going for ever. -/
def Obligations.EndlessNoiseKeepsRdfGoing : Prop :=
  ∀ (s : State) (b : Byte), s.rdfActive = true → s.idx = 0 → s.rx = [] → s.arrivals = [] →
    s.arrivalLoop = [[b]] → b ≠ s.cfg.domain → (∀ cap, s.cfg.rxqCap = some cap → 0 < cap) →
    ∀ n : Nat, ∃ t : State, Host.Core.run core n s = .next t ∧ t.rdfActive = true ∧ t.answers = s.answers

/-! Encoding. -/

/-- R66, R67: decoding the bytes of any operation, with any operands and any bytes after them, gives the operation and
those bytes. -/
def Obligations.DecodeInvertsEncodeOnCommands : Prop :=
  ∀ (c : Config) (i : Instr) (rest : List Byte), i.frame? c = none →
    decodeCommand (encode c i ++ rest) = .ok (i, rest)

/-- R66, R67: bytes that decode to an operation are the bytes of that operation and what follows it. -/
def Obligations.EncodeInvertsDecodeOnCommands : Prop :=
  ∀ (c : Config) (q rest : List Byte) (i : Instr), decodeCommand q = .ok (i, rest) → encode c i ++ rest = q

/-- R61, R64: where the parameters tell the classes apart, decoding the six bytes of any frame class, with any bytes
after them, gives the class and its three free bytes back. -/
def Obligations.DecodeInvertsEncodeOnFrames : Prop :=
  ∀ (c : Config) (i : Instr) (b : Frame) (rest : List Byte), addressesDistinct c → i.frame? c = some b →
    decodeFrame c (encode c i ++ rest) = .ok (i, rest)

/-- R61, R64: under every binding, six bytes that decode to a frame class are the bytes of that class; and six bytes with
the domain byte and recognized addresses do decode. -/
def Obligations.EncodeInvertsDecodeOnFrames : Prop :=
  (∀ (c : Config) (q rest : List Byte) (i : Instr), decodeFrame c q = .ok (i, rest) → encode c i ++ rest = q) ∧
  (∀ (c : Config) (b : Frame), b.domain = c.domain → addrOK c b = true →
    ∃ i, decodeFrame c b.bytes = .ok (i, []) ∧ i.frame? c = some b)

/-- R67: no operation code byte matches two rows of the operation table; each row matches its own code and no other; and
the decoder finds the row at that code, which is the one the encoder writes for the row's operation. -/
def Obligations.OperationCodesUnambiguous : Prop :=
  opTable.Pairwise (fun r r' => ∀ code : Byte, ¬(r.hits code = true ∧ r'.hits code = true)) ∧
  (∀ r ∈ opTable, ∀ code : Byte, r.hits code = true ↔ code = r.code) ∧
  ∀ r ∈ opTable, opRow? r.code = some r ∧ r.op.code = r.code

/-- R10, R61: the 48-bit drawing of a frame has byte 0 in bits 47:40 and byte 5 in bits 7:0. -/
def Obligations.FrameWordDrawsByteZeroFirst : Prop :=
  ∀ f : Frame,
    wordFrame (f.domain.toNat * 2 ^ 40 + f.sender.toNat * 2 ^ 32 + f.receiver.toNat * 2 ^ 24 +
      f.variableId.toNat * 2 ^ 16 + f.value.toNat * 2 ^ 8 + f.checksum.toNat) = f

/-- R67 and the FRM rows of spec/opcode_table.json: words written out from the encodings decode to what they stand for. -/
def Obligations.WordsFromSpecDecode : Prop :=
  decodeCommand [0x02, 0x21, 0x11, 0x00, 0x29] = .ok (.enc 0x21 0x11 0x00 0x29, []) ∧
  decodeCommand [0x06, 0x01, 0x21, 0x11, 0x00, 0x29, 0x5C, 0x08] =
    .ok (.txf ⟨0x01, 0x21, 0x11, 0x00, 0x29, 0x5C⟩, [0x08]) ∧
  decodeCommand [0x0F] = .ok (.rst, []) ∧
  decodeCommand [0x09] = .error (.badOp 0x09) ∧
  decodeFrame Config.p0 [0x01, 0x11, 0x20, 0xA3, 0x01, 0xD6] = .ok (.frmMb1Panels 0xA3 0x01 0xD6, []) ∧
  decodeFrame Config.p0 [0x01, 0x22, 0x11, 0x00, 0x29, 0x5D] = .error .badAddress ∧
  decodeTableWord 48 0x012110000000 = some (.frmP1Mbs 0x00 0x00 0x00) ∧
  decodeTableWord 8 0x07 = some .rxb
end

