-- ==== Sys2Proof/Laws/Decode.lean ====
section
/-! SUPPORT. Laws of the decoder. -/

namespace Sys2Proof

/-- A row that an operation code finds is the row of that code. -/
theorem opRow_code (code : Byte) (r : OpRow) (h : opRow? code = some r) : r.op.code = code := by
  revert h r code
  decide

/-- What a decoded command is, taken apart: its code's row and its operands. -/
theorem decodeCommand_ok (q rest : List Byte) (i : Instr) (h : decodeCommand q = .ok (i, rest)) :
    ∃ code r q', q = code :: q' ∧ opRow? code = some r ∧ readOperands r.op q' = some (i, rest) := by
  cases q with
  | nil => simp [decodeCommand] at h
  | cons code q' =>
    simp only [decodeCommand] at h
    cases hr : opRow? code with
    | none => simp [hr] at h
    | some r =>
      simp only [hr] at h
      cases ho : readOperands r.op q' with
      | none => simp [ho] at h
      | some x =>
        simp only [ho, Except.ok.injEq] at h
        exact ⟨code, r, q', rfl, hr, by rw [ho, h]⟩

/-- A command never decodes to a received frame class. -/
theorem decodeCommand_not_frame (q rest : List Byte) (i : Instr) (h : decodeCommand q = .ok (i, rest))
    (c : Config) : i.frame? c = none := by
  obtain ⟨_, r, q', _, _, ho⟩ := decodeCommand_ok q rest i h
  unfold readOperands at ho
  split at ho <;> simp at ho <;> (obtain ⟨rfl, _⟩ := ho; rfl)

/-- The fetch gives an instruction exactly when the port decodes to it. -/
theorem fetch_run_iff (port rest : List Byte) (i : Instr) :
    fetch port = .run i rest ↔ decodeCommand port = .ok (i, rest) := by
  unfold fetch
  split <;> simp_all

end Sys2Proof
end

