-- ==== Sys2Proof/Laws/Deframe.lean ====
section
/-! SUPPORT. The clauses of `Deframe`, one equation each (spec/41_transport.md R109). -/

namespace Sys2Proof.Machine

@[simp] theorem deframe_nil (c : Config) (h : List Byte) : deframe c h [] = ([], h) := rfl

theorem deframe_skip (c : Config) (b : Byte) (q : List Byte) (hb : b ≠ c.domain) :
    deframe c [] (b :: q) = deframe c [] q := by simp [deframe, hb]

theorem deframe_sync (c : Config) (q : List Byte) : deframe c [] (c.domain :: q) = deframe c [c.domain] q := by
  simp [deframe]

theorem deframe_close (c : Config) (b0 b1 b2 b3 b4 b : Byte) (q : List Byte) :
    deframe c [b0, b1, b2, b3, b4] (b :: q) =
      if accept c ⟨b0, b1, b2, b3, b4, b⟩ then
        (⟨b0, b1, b2, b3, b4, b⟩ :: (deframe c [] q).1, (deframe c [] q).2)
      else deframe c [] q := rfl

theorem deframe_store (c : Config) (h : List Byte) (b : Byte) (q : List Byte) (h1 : 1 ≤ h.length)
    (h4 : h.length ≤ 4) : deframe c h (b :: q) = deframe c (h ++ [b]) q := by
  match h, h1, h4 with
  | [_], _, _ => rfl
  | [_, _], _, _ => rfl
  | [_, _, _], _, _ => rfl
  | [_, _, _, _], _, _ => rfl

end Sys2Proof.Machine
end

