-- ==== Sys2Proof/Laws/Operands.lean ====
section
/-! SUPPORT. Laws of the operand forms and of the conditions. -/

namespace Sys2Proof.Machine

@[simp] theorem frame_get_set_same (f : Frame) (k : Fin 6) (v : Byte) : (f.set k v).get k = v := by
  fin_cases k <;> rfl

theorem frame_get_set_other (f : Frame) (j k : Fin 6) (v : Byte) (h : j ≠ k) : (f.set k v).get j = f.get j := by
  fin_cases j <;> fin_cases k <;> first | rfl | exact absurd rfl h

@[simp] theorem frame_bytes_length (f : Frame) : f.bytes.length = 6 := rfl

theorem frame_bytes_get (f : Frame) (k : Fin 6) : f.bytes[k.val]? = some (f.get k) := by
  fin_cases k <;> rfl

/-- The first bytes of a frame in which one later byte was written. -/
theorem frame_take_set (f : Frame) (k : Fin 6) (v : Byte) : (f.set k v).bytes.take k.val = f.bytes.take k.val := by
  fin_cases k <;> rfl

/-- Writing byte `k` puts it after the first `k` bytes. -/
theorem frame_take_set_succ (f : Frame) (k : Fin 6) (v : Byte) :
    (f.set k v).bytes.take (k.val + 1) = f.bytes.take k.val ++ [v] := by
  fin_cases k <;> rfl

theorem frame_bytes_injective {f g : Frame} (h : f.bytes = g.bytes) : f = g := by
  cases f; cases g; simpa [Frame.bytes] using h

/-- The checksum as a natural number (R80, R81 (b)). -/
theorem csum_toNat (b0 b1 b2 b3 b4 : Byte) :
    (csum b0 b1 b2 b3 b4).toNat = (b0.toNat + b1.toNat + b2.toNat + b3.toNat + b4.toNat) % 256 := by
  simp only [csum, low8, zext11, BitVec.toNat_setWidth, BitVec.toNat_add]
  omega

theorem checksumOK_iff (b : Frame) : checksumOK b = true ↔ b.checksum = frameCsum b := by simp [checksumOK]

theorem senderOK_iff (c : Config) (a : Byte) : senderOK c a = true ↔ a = c.mainboard1 ∨ a = c.panel1 := by
  simp [senderOK]

theorem receiverOK_iff (c : Config) (a : Byte) :
    receiverOK c a = true ↔
      a = c.panelsBroadcast ∨ a = c.panel1 ∨ a = c.mainboard1 ∨ a = c.mainboardsBroadcast := by
  simp [receiverOK, or_assoc]

theorem addrOK_iff (c : Config) (b : Frame) :
    addrOK c b = true ↔ senderOK c b.sender = true ∧ receiverOK c b.receiver = true := by simp [addrOK]

theorem checksumPasses_iff (c : Config) (b : Frame) :
    checksumPasses c b = true ↔ (c.verifyChecksum = true → checksumOK b = true) := by
  cases h : c.verifyChecksum <;> simp [checksumPasses, h]

theorem accept_iff (c : Config) (b : Frame) :
    accept c b = true ↔ addrOK c b = true ∧ checksumPasses c b = true := by simp [accept]

end Sys2Proof.Machine
end

