-- ==== Sys2Proof/Laws/State.lean ====
section
/-! SUPPORT. What each update of the state does to each field. -/

namespace Sys2Proof.Machine

variable (s : State)

@[simp] theorem emit_cfg (e : Event) : (s.emit e).cfg = s.cfg := rfl
@[simp] theorem emit_idx (e : Event) : (s.emit e).idx = s.idx := rfl
@[simp] theorem emit_buf (e : Event) : (s.emit e).buf = s.buf := rfl
@[simp] theorem emit_rx (e : Event) : (s.emit e).rx = s.rx := rfl
@[simp] theorem emit_tx (e : Event) : (s.emit e).tx = s.tx := rfl
@[simp] theorem emit_trace (e : Event) : (s.emit e).trace = s.trace ++ [e] := rfl
@[simp] theorem emit_port (e : Event) : (s.emit e).port = s.port := rfl
@[simp] theorem emit_rdfActive (e : Event) : (s.emit e).rdfActive = s.rdfActive := rfl
@[simp] theorem emit_answers (e : Event) : (s.emit e).answers = s.answers := rfl
@[simp] theorem emit_arrivals (e : Event) : (s.emit e).arrivals = s.arrivals := rfl
@[simp] theorem emit_arrivalLoop (e : Event) : (s.emit e).arrivalLoop = s.arrivalLoop := rfl
@[simp] theorem emit_draws (e : Event) : (s.emit e).draws = s.draws := rfl

@[simp] theorem answer_cfg (st : Status) (d : List Byte) : (s.answer st d).cfg = s.cfg := rfl
@[simp] theorem answer_idx (st : Status) (d : List Byte) : (s.answer st d).idx = s.idx := rfl
@[simp] theorem answer_buf (st : Status) (d : List Byte) : (s.answer st d).buf = s.buf := rfl
@[simp] theorem answer_rx (st : Status) (d : List Byte) : (s.answer st d).rx = s.rx := rfl
@[simp] theorem answer_tx (st : Status) (d : List Byte) : (s.answer st d).tx = s.tx := rfl
@[simp] theorem answer_trace (st : Status) (d : List Byte) : (s.answer st d).trace = s.trace := rfl
@[simp] theorem answer_port (st : Status) (d : List Byte) : (s.answer st d).port = s.port := rfl
@[simp] theorem answer_rdfActive (st : Status) (d : List Byte) : (s.answer st d).rdfActive = s.rdfActive := rfl
@[simp] theorem answer_answers (st : Status) (d : List Byte) : (s.answer st d).answers = s.answers ++ [⟨st, d⟩] := rfl
@[simp] theorem answer_arrivals (st : Status) (d : List Byte) : (s.answer st d).arrivals = s.arrivals := rfl
@[simp] theorem answer_arrivalLoop (st : Status) (d : List Byte) : (s.answer st d).arrivalLoop = s.arrivalLoop := rfl
@[simp] theorem answer_draws (st : Status) (d : List Byte) : (s.answer st d).draws = s.draws := rfl

@[simp] theorem writeBuf_cfg (k : Fin 6) (v : Byte) : (s.writeBuf k v).cfg = s.cfg := rfl
@[simp] theorem writeBuf_idx (k : Fin 6) (v : Byte) : (s.writeBuf k v).idx = s.idx := rfl
@[simp] theorem writeBuf_buf (k : Fin 6) (v : Byte) : (s.writeBuf k v).buf = s.buf.set k v := rfl
@[simp] theorem writeBuf_rx (k : Fin 6) (v : Byte) : (s.writeBuf k v).rx = s.rx := rfl
@[simp] theorem writeBuf_tx (k : Fin 6) (v : Byte) : (s.writeBuf k v).tx = s.tx := rfl
@[simp] theorem writeBuf_trace (k : Fin 6) (v : Byte) : (s.writeBuf k v).trace = s.trace := rfl
@[simp] theorem writeBuf_port (k : Fin 6) (v : Byte) : (s.writeBuf k v).port = s.port := rfl
@[simp] theorem writeBuf_rdfActive (k : Fin 6) (v : Byte) : (s.writeBuf k v).rdfActive = s.rdfActive := rfl
@[simp] theorem writeBuf_answers (k : Fin 6) (v : Byte) : (s.writeBuf k v).answers = s.answers := rfl
@[simp] theorem writeBuf_arrivals (k : Fin 6) (v : Byte) : (s.writeBuf k v).arrivals = s.arrivals := rfl
@[simp] theorem writeBuf_arrivalLoop (k : Fin 6) (v : Byte) : (s.writeBuf k v).arrivalLoop = s.arrivalLoop := rfl
@[simp] theorem writeBuf_draws (k : Fin 6) (v : Byte) : (s.writeBuf k v).draws = s.draws := rfl

@[simp] theorem setIdx_cfg (k : Fin 6) : (s.setIdx k).cfg = s.cfg := rfl
@[simp] theorem setIdx_idx (k : Fin 6) : (s.setIdx k).idx = k := rfl
@[simp] theorem setIdx_buf (k : Fin 6) : (s.setIdx k).buf = s.buf := rfl
@[simp] theorem setIdx_rx (k : Fin 6) : (s.setIdx k).rx = s.rx := rfl
@[simp] theorem setIdx_tx (k : Fin 6) : (s.setIdx k).tx = s.tx := rfl
@[simp] theorem setIdx_trace (k : Fin 6) : (s.setIdx k).trace = s.trace := rfl
@[simp] theorem setIdx_port (k : Fin 6) : (s.setIdx k).port = s.port := rfl
@[simp] theorem setIdx_rdfActive (k : Fin 6) : (s.setIdx k).rdfActive = s.rdfActive := rfl
@[simp] theorem setIdx_answers (k : Fin 6) : (s.setIdx k).answers = s.answers := rfl
@[simp] theorem setIdx_arrivals (k : Fin 6) : (s.setIdx k).arrivals = s.arrivals := rfl
@[simp] theorem setIdx_arrivalLoop (k : Fin 6) : (s.setIdx k).arrivalLoop = s.arrivalLoop := rfl
@[simp] theorem setIdx_draws (k : Fin 6) : (s.setIdx k).draws = s.draws := rfl

@[simp] theorem setRdf_cfg (b : Bool) : (s.setRdf b).cfg = s.cfg := rfl
@[simp] theorem setRdf_idx (b : Bool) : (s.setRdf b).idx = s.idx := rfl
@[simp] theorem setRdf_buf (b : Bool) : (s.setRdf b).buf = s.buf := rfl
@[simp] theorem setRdf_rx (b : Bool) : (s.setRdf b).rx = s.rx := rfl
@[simp] theorem setRdf_tx (b : Bool) : (s.setRdf b).tx = s.tx := rfl
@[simp] theorem setRdf_trace (b : Bool) : (s.setRdf b).trace = s.trace := rfl
@[simp] theorem setRdf_port (b : Bool) : (s.setRdf b).port = s.port := rfl
@[simp] theorem setRdf_rdfActive (b : Bool) : (s.setRdf b).rdfActive = b := rfl
@[simp] theorem setRdf_answers (b : Bool) : (s.setRdf b).answers = s.answers := rfl
@[simp] theorem setRdf_arrivals (b : Bool) : (s.setRdf b).arrivals = s.arrivals := rfl
@[simp] theorem setRdf_arrivalLoop (b : Bool) : (s.setRdf b).arrivalLoop = s.arrivalLoop := rfl
@[simp] theorem setRdf_draws (b : Bool) : (s.setRdf b).draws = s.draws := rfl

@[simp] theorem setPort_cfg (q : List Byte) : (s.setPort q).cfg = s.cfg := rfl
@[simp] theorem setPort_idx (q : List Byte) : (s.setPort q).idx = s.idx := rfl
@[simp] theorem setPort_buf (q : List Byte) : (s.setPort q).buf = s.buf := rfl
@[simp] theorem setPort_rx (q : List Byte) : (s.setPort q).rx = s.rx := rfl
@[simp] theorem setPort_tx (q : List Byte) : (s.setPort q).tx = s.tx := rfl
@[simp] theorem setPort_trace (q : List Byte) : (s.setPort q).trace = s.trace := rfl
@[simp] theorem setPort_port (q : List Byte) : (s.setPort q).port = q := rfl
@[simp] theorem setPort_rdfActive (q : List Byte) : (s.setPort q).rdfActive = s.rdfActive := rfl
@[simp] theorem setPort_answers (q : List Byte) : (s.setPort q).answers = s.answers := rfl
@[simp] theorem setPort_arrivals (q : List Byte) : (s.setPort q).arrivals = s.arrivals := rfl
@[simp] theorem setPort_arrivalLoop (q : List Byte) : (s.setPort q).arrivalLoop = s.arrivalLoop := rfl
@[simp] theorem setPort_draws (q : List Byte) : (s.setPort q).draws = s.draws := rfl

@[simp] theorem memWrite_cfg (v : Byte) : (s.memWrite v).cfg = s.cfg := rfl
@[simp] theorem memWrite_idx (v : Byte) : (s.memWrite v).idx = s.idx := rfl
@[simp] theorem memWrite_buf (v : Byte) : (s.memWrite v).buf = s.buf := rfl
@[simp] theorem memWrite_rx (v : Byte) : (s.memWrite v).rx = s.rx := rfl
@[simp] theorem memWrite_tx (v : Byte) : (s.memWrite v).tx = s.tx ++ [v] := rfl
@[simp] theorem memWrite_trace (v : Byte) : (s.memWrite v).trace = s.trace ++ [.tx v] := rfl
@[simp] theorem memWrite_port (v : Byte) : (s.memWrite v).port = s.port := rfl
@[simp] theorem memWrite_rdfActive (v : Byte) : (s.memWrite v).rdfActive = s.rdfActive := rfl
@[simp] theorem memWrite_answers (v : Byte) : (s.memWrite v).answers = s.answers := rfl
@[simp] theorem memWrite_arrivals (v : Byte) : (s.memWrite v).arrivals = s.arrivals := rfl
@[simp] theorem memWrite_arrivalLoop (v : Byte) : (s.memWrite v).arrivalLoop = s.arrivalLoop := rfl
@[simp] theorem memWrite_draws (v : Byte) : (s.memWrite v).draws = s.draws := rfl

@[simp] theorem badOp_cfg : (s.badOp).cfg = s.cfg := rfl
@[simp] theorem badOp_idx : (s.badOp).idx = s.idx := rfl
@[simp] theorem badOp_buf : (s.badOp).buf = s.buf := rfl
@[simp] theorem badOp_rx : (s.badOp).rx = s.rx := rfl
@[simp] theorem badOp_tx : (s.badOp).tx = s.tx := rfl
@[simp] theorem badOp_trace : (s.badOp).trace = s.trace := rfl
@[simp] theorem badOp_port : (s.badOp).port = s.port := rfl
@[simp] theorem badOp_rdfActive : (s.badOp).rdfActive = s.rdfActive := rfl
@[simp] theorem badOp_answers : (s.badOp).answers = s.answers ++ [⟨.badOp, []⟩] := rfl
@[simp] theorem badOp_arrivals : (s.badOp).arrivals = s.arrivals := rfl
@[simp] theorem badOp_arrivalLoop : (s.badOp).arrivalLoop = s.arrivalLoop := rfl
@[simp] theorem badOp_draws : (s.badOp).draws = s.draws := rfl

@[simp] theorem setRx_cfg (q : List Byte) : (s.setRx q).cfg = s.cfg := rfl
@[simp] theorem setRx_idx (q : List Byte) : (s.setRx q).idx = s.idx := rfl
@[simp] theorem setRx_buf (q : List Byte) : (s.setRx q).buf = s.buf := rfl
@[simp] theorem setRx_rx (q : List Byte) : (s.setRx q).rx = q := rfl
@[simp] theorem setRx_tx (q : List Byte) : (s.setRx q).tx = s.tx := rfl
@[simp] theorem setRx_trace (q : List Byte) : (s.setRx q).trace = s.trace := rfl
@[simp] theorem setRx_port (q : List Byte) : (s.setRx q).port = s.port := rfl
@[simp] theorem setRx_rdfActive (q : List Byte) : (s.setRx q).rdfActive = s.rdfActive := rfl
@[simp] theorem setRx_answers (q : List Byte) : (s.setRx q).answers = s.answers := rfl
@[simp] theorem setRx_arrivals (q : List Byte) : (s.setRx q).arrivals = s.arrivals := rfl
@[simp] theorem setRx_arrivalLoop (q : List Byte) : (s.setRx q).arrivalLoop = s.arrivalLoop := rfl
@[simp] theorem setRx_draws (q : List Byte) : (s.setRx q).draws = s.draws := rfl

@[simp] theorem setBuf_cfg (b : Frame) : (s.setBuf b).cfg = s.cfg := rfl
@[simp] theorem setBuf_idx (b : Frame) : (s.setBuf b).idx = s.idx := rfl
@[simp] theorem setBuf_buf (b : Frame) : (s.setBuf b).buf = b := rfl
@[simp] theorem setBuf_rx (b : Frame) : (s.setBuf b).rx = s.rx := rfl
@[simp] theorem setBuf_tx (b : Frame) : (s.setBuf b).tx = s.tx := rfl
@[simp] theorem setBuf_trace (b : Frame) : (s.setBuf b).trace = s.trace := rfl
@[simp] theorem setBuf_port (b : Frame) : (s.setBuf b).port = s.port := rfl
@[simp] theorem setBuf_rdfActive (b : Frame) : (s.setBuf b).rdfActive = s.rdfActive := rfl
@[simp] theorem setBuf_answers (b : Frame) : (s.setBuf b).answers = s.answers := rfl
@[simp] theorem setBuf_arrivals (b : Frame) : (s.setBuf b).arrivals = s.arrivals := rfl
@[simp] theorem setBuf_arrivalLoop (b : Frame) : (s.setBuf b).arrivalLoop = s.arrivalLoop := rfl
@[simp] theorem setBuf_draws (b : Frame) : (s.setBuf b).draws = s.draws := rfl

end Sys2Proof.Machine
end

