-- ==== Sys2Proof/Laws/Ops.lean ====
section
/-! SUPPORT. For each shared operation, what it can do: the collaborator primitives, the arrivals, the drop, the
completion of a frame and the byte step. -/

namespace Sys2Proof.Machine

/-! The receive queue. -/

theorem memRead_nil (s : State) (h : s.rx = []) : s.memRead = .error .rxEmpty := by simp [State.memRead, h]

theorem memRead_cons (s : State) (b : Byte) (q : List Byte) (h : s.rx = b :: q) :
    s.memRead = .ok (b, s.setRx q) := by simp [State.memRead, h]

/-- An arriving byte changes `RX` and the count of free values, and nothing else. -/
theorem arrive_frame (s : State) (b : Byte) : ∃ q n, s.arrive b = { s with rx := q, draws := n } := by
  unfold State.arrive
  split
  · exact ⟨s.rx ++ [b], s.draws, rfl⟩
  · exact ⟨_, _, rfl⟩

theorem arriveAll_frame (s : State) (l : List Byte) : ∃ q n, s.arriveAll l = { s with rx := q, draws := n } := by
  induction l generalizing s with
  | nil => exact ⟨s.rx, s.draws, rfl⟩
  | cons b l ih =>
    obtain ⟨q, n, h⟩ := arrive_frame s b
    obtain ⟨q', n', h'⟩ := ih (s.arrive b)
    exact ⟨q', n', by rw [State.arriveAll, List.foldl_cons, ← State.arriveAll, h', h]⟩

/-- On a silent line nothing lands. -/
theorem land_quiet (s : State) (h : s.arrivals = []) (h' : s.arrivalLoop = []) : s.land = s := by
  simp [State.land, h, h']

/-- The arrivals before a step change `RX`, the arrivals to come and the count of free values, and nothing else. -/
theorem land_frame (s : State) : ∃ q a n, s.land = { s with rx := q, arrivals := a, draws := n } := by
  cases ha : s.arrivals with
  | cons l rest =>
    obtain ⟨q, n, h⟩ := arriveAll_frame s l
    exact ⟨q, rest, n, by simp [State.land, ha, h]⟩
  | nil =>
    cases hl : s.arrivalLoop with
    | cons l rest =>
      obtain ⟨q, n, h⟩ := arriveAll_frame s l
      exact ⟨q, rest, n, by simp [State.land, ha, hl, h]⟩
    | nil => exact ⟨s.rx, s.arrivals, s.draws, (land_quiet s ha hl).trans (by cases s; simp_all)⟩

@[simp] theorem land_cfg (s : State) : s.land.cfg = s.cfg := by obtain ⟨_, _, _, h⟩ := land_frame s; rw [h]
@[simp] theorem land_idx (s : State) : s.land.idx = s.idx := by obtain ⟨_, _, _, h⟩ := land_frame s; rw [h]
@[simp] theorem land_buf (s : State) : s.land.buf = s.buf := by obtain ⟨_, _, _, h⟩ := land_frame s; rw [h]
@[simp] theorem land_tx (s : State) : s.land.tx = s.tx := by obtain ⟨_, _, _, h⟩ := land_frame s; rw [h]
@[simp] theorem land_trace (s : State) : s.land.trace = s.trace := by obtain ⟨_, _, _, h⟩ := land_frame s; rw [h]
@[simp] theorem land_port (s : State) : s.land.port = s.port := by obtain ⟨_, _, _, h⟩ := land_frame s; rw [h]
@[simp] theorem land_rdfActive (s : State) : s.land.rdfActive = s.rdfActive := by
  obtain ⟨_, _, _, h⟩ := land_frame s; rw [h]
@[simp] theorem land_answers (s : State) : s.land.answers = s.answers := by
  obtain ⟨_, _, _, h⟩ := land_frame s; rw [h]
@[simp] theorem land_arrivalLoop (s : State) : s.land.arrivalLoop = s.arrivalLoop := by
  obtain ⟨_, _, _, h⟩ := land_frame s; rw [h]

/-- With an unbounded queue the bytes of one moment are appended in order. -/
theorem arriveAll_unbounded (s : State) (l : List Byte) (h : s.cfg.rxqCap = none) :
    s.arriveAll l = { s with rx := s.rx ++ l } := by
  induction l generalizing s with
  | nil => simp [State.arriveAll]
  | cons b l ih =>
    have hb : s.arrive b = s.setRx (s.rx ++ [b]) := by simp [State.arrive, rxRoom, h]
    have hl := ih (s.arrive b) (by rw [hb]; exact h)
    rw [State.arriveAll, List.foldl_cons, ← State.arriveAll, hl, hb]
    simp

/-! The reader. -/

@[simp] theorem phase_collect_iff (s : State) : s.phase = .collect ↔ s.idx ≠ 0 := by
  unfold State.phase
  split <;> simp_all

@[simp] theorem phase_hunt_iff (s : State) : s.phase = .hunt ↔ s.idx = 0 := by
  unfold State.phase
  split <;> simp_all

theorem held_length (s : State) : s.held.length = s.idx.val := by simp [State.held]

@[simp] theorem setPort_held (s : State) (q : List Byte) : (s.setPort q).held = s.held := rfl
@[simp] theorem answer_held (s : State) (st : Status) (d : List Byte) : (s.answer st d).held = s.held := rfl
@[simp] theorem emit_held (s : State) (e : Event) : (s.emit e).held = s.held := rfl
@[simp] theorem setRdf_held (s : State) (b : Bool) : (s.setRdf b).held = s.held := rfl
@[simp] theorem setRx_held (s : State) (q : List Byte) : (s.setRx q).held = s.held := rfl
@[simp] theorem land_held (s : State) : s.land.held = s.held := by simp [State.held]

/-- Storing a byte at `buf[idx]` and moving on adds it to the bytes held. -/
theorem held_store (s : State) (b : Byte) (h : s.idx ≠ 5) :
    ((s.writeBuf s.idx b).setIdx (s.idx + 1)).held = s.held ++ [b] := by
  have hne : s.idx.val ≠ 5 := fun e => h (Fin.ext e)
  have hv : (s.idx + 1).val = s.idx.val + 1 := by
    rw [Fin.val_add]
    change (s.idx.val + 1) % 6 = _
    omega
  simp only [State.held, setIdx_idx, setIdx_buf, writeBuf_buf, hv]
  exact frame_take_set_succ s.buf s.idx b

/-- The one exception of the block: its whole effect. -/
theorem raiseDrop_eq (r : DropReason) (b : Frame) (s : State) :
    raiseDrop r b s = (.consumed, { s with idx := 0, trace := s.trace ++ [r.event b] }) := rfl

/-- The three ends of a completed frame (R106). -/
theorem closeFrame_cases (b : Frame) (s : State) :
    (accept s.cfg b = true ∧
      closeFrame b s = (.frame b, ((s.setBuf b).setIdx 0).emit (.accept b))) ∨
    (addrOK s.cfg b = false ∧
      closeFrame b s = (.consumed, ((s.setBuf b).setIdx 0).emit (.dropAddr b))) ∨
    (addrOK s.cfg b = true ∧ checksumPasses s.cfg b = false ∧
      closeFrame b s = (.consumed, ((s.setBuf b).setIdx 0).emit (.dropCsum b))) := by
  unfold closeFrame
  cases ha : addrOK s.cfg b
  · exact .inr (.inl ⟨rfl, rfl⟩)
  · cases hc : checksumPasses s.cfg b
    · exact .inr (.inr ⟨rfl, rfl, rfl⟩)
    · exact .inl ⟨by simp [accept, ha, hc], rfl⟩

/-- The four cases of a byte step on a byte (R102). -/
theorem takeByte_cases (b : Byte) (s : State) :
    (s.idx = 0 ∧ b ≠ s.cfg.domain ∧ takeByte b s = (.consumed, s.emit (.skip b))) ∨
    (s.idx = 0 ∧ b = s.cfg.domain ∧
      takeByte b s = (.consumed, ((s.writeBuf 0 b).setIdx 1).emit .sync)) ∨
    (s.idx ≠ 0 ∧ s.idx ≠ 5 ∧
      takeByte b s = (.consumed, (s.writeBuf s.idx b).setIdx (s.idx + 1))) ∨
    (s.idx = 5 ∧ takeByte b s = closeFrame (s.buf.set 5 b) s) := by
  by_cases h0 : s.idx = 0
  · by_cases hb : b = s.cfg.domain
    · exact .inr (.inl ⟨h0, hb, by simp [takeByte, h0, hb]⟩)
    · exact .inl ⟨h0, hb, by simp [takeByte, h0, hb]⟩
  · by_cases h5 : s.idx = 5
    · exact .inr (.inr (.inr ⟨h5, by simp [takeByte, h5]⟩))
    · exact .inr (.inr (.inl ⟨h0, h5, by simp [takeByte, h0, h5]⟩))

/-- Everything a byte step does with the byte `b` popped from `RX`, case by case with the ends of CLOSE told apart
(R102 to R106). -/
theorem takeByte_popped_cases (s : State) (b : Byte) (q : List Byte) :
    (s.idx = 0 ∧ b ≠ s.cfg.domain ∧ takeByte b (s.setRx q) = (.consumed, (s.setRx q).emit (.skip b))) ∨
    (s.idx = 0 ∧ b = s.cfg.domain ∧
      takeByte b (s.setRx q) = (.consumed, (((s.setRx q).writeBuf 0 b).setIdx 1).emit .sync)) ∨
    (s.idx ≠ 0 ∧ s.idx ≠ 5 ∧
      takeByte b (s.setRx q) = (.consumed, ((s.setRx q).writeBuf s.idx b).setIdx (s.idx + 1))) ∨
    (s.idx = 5 ∧ accept s.cfg (s.buf.set 5 b) = true ∧
      takeByte b (s.setRx q) =
        (.frame (s.buf.set 5 b), (((s.setRx q).setBuf (s.buf.set 5 b)).setIdx 0).emit (.accept (s.buf.set 5 b)))) ∨
    (s.idx = 5 ∧ addrOK s.cfg (s.buf.set 5 b) = false ∧
      takeByte b (s.setRx q) =
        (.consumed, (((s.setRx q).setBuf (s.buf.set 5 b)).setIdx 0).emit (.dropAddr (s.buf.set 5 b)))) ∨
    (s.idx = 5 ∧ addrOK s.cfg (s.buf.set 5 b) = true ∧ checksumPasses s.cfg (s.buf.set 5 b) = false ∧
      takeByte b (s.setRx q) =
        (.consumed, (((s.setRx q).setBuf (s.buf.set 5 b)).setIdx 0).emit (.dropCsum (s.buf.set 5 b)))) := by
  rcases takeByte_cases b (s.setRx q) with h | h | h | ⟨h5, h⟩
  · exact .inl h
  · exact .inr (.inl h)
  · exact .inr (.inr (.inl h))
  · refine .inr (.inr (.inr ?_))
    rcases closeFrame_cases (s.buf.set 5 b) (s.setRx q) with ⟨ha, hc⟩ | ⟨ha, hc⟩ | ⟨ha, hp, hc⟩
    · exact .inl ⟨h5, ha, h.trans hc⟩
    · exact .inr (.inl ⟨h5, ha, h.trans hc⟩)
    · exact .inr (.inr ⟨h5, ha, hp, h.trans hc⟩)

theorem byteStep_nil (s : State) (h : s.rx = []) : byteStep s = .ok (.noFrame, s) := by
  simp [byteStep, State.avail, h]

theorem byteStep_cons (s : State) (b : Byte) (q : List Byte) (h : s.rx = b :: q) :
    byteStep s = .ok (takeByte b (s.setRx q)) := by
  simp [byteStep, State.avail, memRead_cons s b q h, h]

/-- A byte step never meets the empty queue: it always gives a result. -/
theorem byteStep_ok (s : State) : ∃ r t, byteStep s = .ok (r, t) := by
  cases h : s.rx with
  | nil => exact ⟨_, _, byteStep_nil s h⟩
  | cons b q => exact ⟨_, _, byteStep_cons s b q h⟩

end Sys2Proof.Machine
end

