-- ==== Sys2Proof/Laws/Step.lean ====
section
/-! SUPPORT. The step unfolded once, case by case, and the meaning of each instruction as one equation. -/

namespace Sys2Proof.Machine

theorem step_rdf (s : State) (h : s.rdfActive = true) : step s = exec .rdf s.land := by
  simp [step, blockStep, h]

theorem step_idle (s : State) (h : s.rdfActive = false) (hf : fetch s.port = .idle) : step s = .next s.land := by
  simp [step, blockStep, h, hf]

theorem step_run (s : State) (i : Instr) (rest : List Byte) (h : s.rdfActive = false)
    (hf : fetch s.port = .run i rest) : step s = exec i (s.land.setPort rest) := by
  simp [step, blockStep, h, hf]

theorem step_unassigned (s : State) (rest : List Byte) (h : s.rdfActive = false)
    (hf : fetch s.port = .unassigned rest) : step s = .next (s.land.setPort rest).badOp := by
  simp [step, blockStep, h, hf]

/-- What `step` can be, from the state in which the arrivals have landed. -/
theorem step_cases (s : State) :
    (s.rdfActive = true ∧ step s = exec .rdf s.land) ∨
    (s.rdfActive = false ∧ fetch s.port = .idle ∧ step s = .next s.land) ∨
    (s.rdfActive = false ∧ ∃ rest, fetch s.port = .unassigned rest ∧
      step s = .next (s.land.setPort rest).badOp) ∨
    (s.rdfActive = false ∧ ∃ i rest, fetch s.port = .run i rest ∧ step s = exec i (s.land.setPort rest)) := by
  cases h : s.rdfActive
  · cases hf : fetch s.port with
    | idle => exact .inr (.inl ⟨rfl, rfl, step_idle s h hf⟩)
    | unassigned rest => exact .inr (.inr (.inl ⟨rfl, rest, rfl, step_unassigned s rest h hf⟩))
    | run i rest => exact .inr (.inr (.inr ⟨rfl, i, rest, rfl, step_run s i rest h hf⟩))
  · exact .inl ⟨rfl, step_rdf s h⟩

/-- A run of one step more begins with a step. -/
theorem run_succ (k : Nat) (s t : State) (h : step s = .next t) :
    Host.Core.run core (k + 1) s = Host.Core.run core k t := by
  have h' : core.step s = .next t := h
  simp only [Host.Core.run, h']

/-- The six writes of `TXF` as one update. -/
theorem memWrite_all (s : State) (q : List Byte) :
    q.foldl State.memWrite s = { s with tx := s.tx ++ q, trace := s.trace ++ q.map Event.tx } := by
  induction q generalizing s with
  | nil => simp
  | cons v q ih => rw [List.foldl_cons, ih]; simp [State.memWrite]

theorem execRxb_of_byteStep (s t : State) (r : ByteResult) (h : byteStep s = .ok (r, t)) :
    execRxb s = .next (finishRxb r t) := by simp [execRxb, h]

theorem execRdf_of_byteStep (s t : State) (r : ByteResult) (h : byteStep s = .ok (r, t)) :
    execRdf s = .next (finishRdf r t) := by simp [execRdf, h]

theorem execRxb_nil (s : State) (h : s.rx = []) : execRxb s = .next (s.answer .noFrame []) :=
  execRxb_of_byteStep s s .noFrame (byteStep_nil s h)

theorem execRdf_nil (s : State) (h : s.rx = []) : execRdf s = .next ((s.setRdf false).answer .noFrame []) :=
  execRdf_of_byteStep s s .noFrame (byteStep_nil s h)

theorem execRxb_cons (s : State) (b : Byte) (q : List Byte) (h : s.rx = b :: q) :
    execRxb s = .next (finishRxb (takeByte b (s.setRx q)).1 (takeByte b (s.setRx q)).2) := by
  simp only [execRxb, byteStep_cons s b q h]

theorem execRdf_cons (s : State) (b : Byte) (q : List Byte) (h : s.rx = b :: q) :
    execRdf s = .next (finishRdf (takeByte b (s.setRx q)).1 (takeByte b (s.setRx q)).2) := by
  simp only [execRdf, byteStep_cons s b q h]

end Sys2Proof.Machine
end

