-- ==== Sys2Proof/Laws/Exec.lean ====
section
/-! SUPPORT. What an instruction can do, said once: the answers' effect on each field, the meaning of the received frame
classes, and the inversion of `exec`. -/

namespace Sys2Proof.Machine

@[simp] theorem finishRxb_cfg (r : ByteResult) (s : State) : (finishRxb r s).cfg = s.cfg := by cases r <;> rfl
@[simp] theorem finishRxb_idx (r : ByteResult) (s : State) : (finishRxb r s).idx = s.idx := by cases r <;> rfl
@[simp] theorem finishRxb_buf (r : ByteResult) (s : State) : (finishRxb r s).buf = s.buf := by cases r <;> rfl
@[simp] theorem finishRxb_rx (r : ByteResult) (s : State) : (finishRxb r s).rx = s.rx := by cases r <;> rfl
@[simp] theorem finishRxb_tx (r : ByteResult) (s : State) : (finishRxb r s).tx = s.tx := by cases r <;> rfl
@[simp] theorem finishRxb_trace (r : ByteResult) (s : State) : (finishRxb r s).trace = s.trace := by cases r <;> rfl
@[simp] theorem finishRxb_port (r : ByteResult) (s : State) : (finishRxb r s).port = s.port := by cases r <;> rfl
@[simp] theorem finishRxb_arrivals (r : ByteResult) (s : State) : (finishRxb r s).arrivals = s.arrivals := by cases r <;> rfl
@[simp] theorem finishRxb_arrivalLoop (r : ByteResult) (s : State) : (finishRxb r s).arrivalLoop = s.arrivalLoop := by cases r <;> rfl
@[simp] theorem finishRxb_draws (r : ByteResult) (s : State) : (finishRxb r s).draws = s.draws := by cases r <;> rfl
@[simp] theorem finishRxb_held (r : ByteResult) (s : State) : (finishRxb r s).held = s.held := by cases r <;> rfl

@[simp] theorem finishRdf_cfg (r : ByteResult) (s : State) : (finishRdf r s).cfg = s.cfg := by cases r <;> rfl
@[simp] theorem finishRdf_idx (r : ByteResult) (s : State) : (finishRdf r s).idx = s.idx := by cases r <;> rfl
@[simp] theorem finishRdf_buf (r : ByteResult) (s : State) : (finishRdf r s).buf = s.buf := by cases r <;> rfl
@[simp] theorem finishRdf_rx (r : ByteResult) (s : State) : (finishRdf r s).rx = s.rx := by cases r <;> rfl
@[simp] theorem finishRdf_tx (r : ByteResult) (s : State) : (finishRdf r s).tx = s.tx := by cases r <;> rfl
@[simp] theorem finishRdf_trace (r : ByteResult) (s : State) : (finishRdf r s).trace = s.trace := by cases r <;> rfl
@[simp] theorem finishRdf_port (r : ByteResult) (s : State) : (finishRdf r s).port = s.port := by cases r <;> rfl
@[simp] theorem finishRdf_arrivals (r : ByteResult) (s : State) : (finishRdf r s).arrivals = s.arrivals := by cases r <;> rfl
@[simp] theorem finishRdf_arrivalLoop (r : ByteResult) (s : State) : (finishRdf r s).arrivalLoop = s.arrivalLoop := by cases r <;> rfl
@[simp] theorem finishRdf_draws (r : ByteResult) (s : State) : (finishRdf r s).draws = s.draws := by cases r <;> rfl
@[simp] theorem finishRdf_held (r : ByteResult) (s : State) : (finishRdf r s).held = s.held := by cases r <;> rfl

@[simp] theorem finishRxb_rdfActive (r : ByteResult) (s : State) : (finishRxb r s).rdfActive = s.rdfActive := by
  cases r <;> rfl

theorem receiveFrame_eq (b : Frame) (s : State) :
    receiveFrame b s =
      if s.rdfActive then finishRdf (closeFrame b s).1 (closeFrame b s).2
      else finishRxb (closeFrame b s).1 (closeFrame b s).2 := rfl

/-- The meaning of a received frame class is its frame, received; and its addresses are recognized. -/
theorem exec_frame (i : Instr) (s : State) (b : Frame) (h : i.frame? s.cfg = some b) :
    exec i s = .next (receiveFrame b s) ∧ addrOK s.cfg b = true := by
  cases i <;> simp [Instr.frame?] at h <;> subst h <;> refine ⟨rfl, ?_⟩ <;>
    simp [addrOK, senderOK, receiverOK, receivedFrame]

/-- The effects an instruction can have: an answer alone, the writes of `TXF`, `RST`, the reader on an empty queue, the
reader on a byte, and a received frame. -/
inductive Effect (i : Instr) (s : State) : State → Prop where
  | answered (a : Answer) : i.frame? s.cfg = none → Effect i s { s with answers := s.answers ++ [a] }
  | wrote (f : Frame) : i = .txf f →
      Effect i s { s with
        tx := s.tx ++ f.bytes, trace := s.trace ++ f.bytes.map Event.tx, answers := s.answers ++ [⟨.ok, []⟩] }
  | restarted : i = .rst → Effect i s { s with idx := 0, answers := s.answers ++ [⟨.ok, []⟩] }
  | rxbEmpty : i = .rxb → s.rx = [] → Effect i s (finishRxb .noFrame s)
  | rdfEmpty : i = .rdf → s.rx = [] → Effect i s (finishRdf .noFrame s)
  | rxbTook (b : Byte) (q : List Byte) : i = .rxb → s.rx = b :: q →
      Effect i s (finishRxb (takeByte b (s.setRx q)).1 (takeByte b (s.setRx q)).2)
  | rdfTook (b : Byte) (q : List Byte) : i = .rdf → s.rx = b :: q →
      Effect i s (finishRdf (takeByte b (s.setRx q)).1 (takeByte b (s.setRx q)).2)
  | received (b : Frame) : i.frame? s.cfg = some b → Effect i s (receiveFrame b s)

/-- Inversion of `exec`: a next state is one of these. -/
theorem exec_effect (i : Instr) (s t : State) (h : exec i s = .next t) : Effect i s t := by
  cases hi : i.frame? s.cfg with
  | some b =>
    rw [(exec_frame i s b hi).1] at h
    cases h
    exact .received b hi
  | none =>
    cases i <;> simp [Instr.frame?] at hi
    case csum => cases h; exact .answered _ rfl
    case enc => cases h; exact .answered _ rfl
    case vfy => cases h; exact .answered _ rfl
    case aflt => cases h; exact .answered _ rfl
    case dec b =>
      simp only [exec, execDec] at h
      split_ifs at h <;> cases h <;> exact .answered _ rfl
    case txf f =>
      simp only [exec, execTxf, memWrite_all] at h
      cases h
      exact .wrote f rfl
    case rst => cases h; exact .restarted rfl
    case rxb =>
      cases hr : s.rx with
      | nil => rw [exec, execRxb_nil s hr] at h; cases h; exact .rxbEmpty rfl hr
      | cons b q => rw [exec, execRxb_cons s b q hr] at h; cases h; exact .rxbTook b q rfl hr
    case rdf =>
      cases hr : s.rx with
      | nil => rw [exec, execRdf_nil s hr] at h; cases h; exact .rdfEmpty rfl hr
      | cons b q => rw [exec, execRdf_cons s b q hr] at h; cases h; exact .rdfTook b q rfl hr

end Sys2Proof.Machine
end

