-- ==== Sys2Proof/Laws/PerInstr.lean ====
section
/-! SUPPORT. Statements for all instructions, one lemma per constructor. -/

namespace Sys2Proof.Laws.EncodedLength

/-- The encoding of an instruction has the length the tables give it, under every parameter binding: the command length
of spec/30_encoding.md R67, six bytes for a frame (R69). -/
def Statement (i : Instr) : Prop := ∀ c : Config, (encode c i).length = encodedLength i

theorem csum (b0 b1 b2 b3 b4 : Byte) : Statement (.csum b0 b1 b2 b3 b4) := fun _ => rfl

theorem enc (s r i v : Byte) : Statement (.enc s r i v) := fun _ => rfl

theorem vfy (b : Frame) : Statement (.vfy b) := fun _ => rfl

theorem dec (b : Frame) : Statement (.dec b) := fun _ => rfl

theorem aflt (b : Frame) : Statement (.aflt b) := fun _ => rfl

theorem txf (b : Frame) : Statement (.txf b) := fun _ => rfl

theorem rxb : Statement .rxb := fun _ => rfl

theorem rdf : Statement .rdf := fun _ => rfl

theorem rst : Statement .rst := fun _ => rfl

theorem frmMb1Panels (i v k : Byte) : Statement (.frmMb1Panels i v k) := fun _ => rfl

theorem frmMb1Panel1 (i v k : Byte) : Statement (.frmMb1Panel1 i v k) := fun _ => rfl

theorem frmMb1Mb1 (i v k : Byte) : Statement (.frmMb1Mb1 i v k) := fun _ => rfl

theorem frmMb1Mbs (i v k : Byte) : Statement (.frmMb1Mbs i v k) := fun _ => rfl

theorem frmP1Panels (i v k : Byte) : Statement (.frmP1Panels i v k) := fun _ => rfl

theorem frmP1Panel1 (i v k : Byte) : Statement (.frmP1Panel1 i v k) := fun _ => rfl

theorem frmP1Mb1 (i v k : Byte) : Statement (.frmP1Mb1 i v k) := fun _ => rfl

theorem frmP1Mbs (i v k : Byte) : Statement (.frmP1Mbs i v k) := fun _ => rfl

end Sys2Proof.Laws.EncodedLength
end

