-- ==== Sys2Proof/Tests/Slice0.lean ====
section
/-! SUPPORT. The model's own tests. Expected values come from spec/95_test_vectors.md (the vector is named) or are worked
out by hand from the rule named. -/

namespace Sys2Proof.Tests

open Sys2Proof.Machine

/-- The reader at `idx` with a buffer and a queue, all else as after reset. -/
def readerAt (idx : Fin 6) (buf : Frame) (rx : List Byte) : State :=
  { State.reset with idx := idx, buf := buf, rx := rx }

/-- The same under lenient `P0`. -/
def lenientAt (idx : Fin 6) (buf : Frame) (rx : List Byte) : State :=
  { readerAt idx buf rx with cfg := { Config.p0 with verifyChecksum := false } }

/-- The state after a step or an instruction; the state after reset for a stop. -/
def after (o : Host.Outcome State Fault Refusal) : State :=
  match o with
  | .next s => s
  | .fault _ => State.reset
  | .refused _ => State.reset

/-- Did the machine go on? -/
def goesOn (o : Host.Outcome State Fault Refusal) : Bool :=
  match o with
  | .next _ => true
  | .fault _ => false
  | .refused _ => false

/-- The bytes of the answers given so far. -/
def answerBytes (s : State) : List (List Byte) := s.answers.map Answer.bytes

/-- An encoded frame, mainboard to panel (V-EN-1). -/
def good : Frame := ⟨0x01, 0x11, 0x21, 0x29, 0x07, 0x63⟩

/-- The same with a wrong checksum (V-VF-7). -/
def bad : Frame := ⟨0x01, 0x11, 0x21, 0x29, 0x07, 0x64⟩

/-- A frame from an unrecognized sender (V-EN-5). -/
def stray : Frame := ⟨0x01, 0x22, 0x11, 0x00, 0x29, 0x5D⟩

/-! Well-formedness: its one check refuses a frame class with a wrong checksum, in strict mode only (R64). -/

theorem test_wellFormed_refuses_wrong_checksum :
    (Instr.frmMb1Panel1 0x29 0x07 0x64).wellFormed Config.p0 = false := by decide

theorem test_wellFormed_accepts_right_checksum :
    (Instr.frmMb1Panel1 0x29 0x07 0x63).wellFormed Config.p0 = true := by decide

theorem test_wellFormed_lenient_accepts_any_checksum :
    (Instr.frmMb1Panel1 0x29 0x07 0x64).wellFormed { Config.p0 with verifyChecksum := false } = true := by decide

/-! Decoding: words written out from R67, R64 and programs P-1 to P-5. -/

theorem test_decode_csum :
    decodeCommand [0x01, 0x01, 0x11, 0x21, 0x29, 0xA4] = .ok (.csum 0x01 0x11 0x21 0x29 0xA4, []) := by decide

theorem test_decode_enc :
    decodeCommand [0x02, 0x21, 0x11, 0x00, 0x29, 0x06] = .ok (.enc 0x21 0x11 0x00 0x29, [0x06]) := by decide

theorem test_decode_vfy :
    decodeCommand [0x03, 0x01, 0x22, 0x11, 0x00, 0x29, 0x5D] = .ok (.vfy stray, []) := by decide

theorem test_decode_dec :
    decodeCommand [0x04, 0x01, 0x22, 0x11, 0x00, 0x29, 0x5D] = .ok (.dec stray, []) := by decide

theorem test_decode_aflt :
    decodeCommand [0x05, 0x01, 0x22, 0x11, 0x00, 0x29, 0x5D] = .ok (.aflt stray, []) := by decide

theorem test_decode_txf :
    decodeCommand [0x06, 0x01, 0x21, 0x11, 0x00, 0x29, 0x5C] =
      .ok (.txf ⟨0x01, 0x21, 0x11, 0x00, 0x29, 0x5C⟩, []) := by decide

theorem test_decode_rxb : decodeCommand [0x07, 0x08] = .ok (.rxb, [0x08]) := by decide

theorem test_decode_rdf : decodeCommand [0x08] = .ok (.rdf, []) := by decide

theorem test_decode_rst : decodeCommand [0x0F, 0x01] = .ok (.rst, [0x01]) := by decide

theorem test_decode_frame_classes_of_mainboard :
    decodeFrame Config.p0 [0x01, 0x11, 0x20, 0xA3, 0x01, 0xD6] = .ok (.frmMb1Panels 0xA3 0x01 0xD6, []) ∧
    decodeFrame Config.p0 [0x01, 0x11, 0x21, 0x29, 0x07, 0x63] = .ok (.frmMb1Panel1 0x29 0x07 0x63, []) ∧
    decodeFrame Config.p0 [0x01, 0x11, 0x11, 0x29, 0x07, 0x53] = .ok (.frmMb1Mb1 0x29 0x07 0x53, []) ∧
    decodeFrame Config.p0 [0x01, 0x11, 0x10, 0x29, 0x07, 0x52] = .ok (.frmMb1Mbs 0x29 0x07 0x52, []) := by decide

theorem test_decode_frame_classes_of_panel :
    decodeFrame Config.p0 [0x01, 0x21, 0x20, 0x29, 0x0F, 0x7A] = .ok (.frmP1Panels 0x29 0x0F 0x7A, []) ∧
    decodeFrame Config.p0 [0x01, 0x21, 0x21, 0x29, 0x0F, 0x7B] = .ok (.frmP1Panel1 0x29 0x0F 0x7B, []) ∧
    decodeFrame Config.p0 [0x01, 0x21, 0x11, 0x00, 0x29, 0x5C] = .ok (.frmP1Mb1 0x00 0x29 0x5C, []) ∧
    decodeFrame Config.p0 [0x01, 0x21, 0x10, 0x29, 0x0F, 0x6A] = .ok (.frmP1Mbs 0x29 0x0F 0x6A, []) := by decide

/-- Not decoded, each by name (R65, R68, R69). -/
theorem test_decode_rejects_by_name :
    decodeCommand [0x00] = .error (.badOp 0x00) ∧ decodeCommand [] = .error .noBytes ∧
    decodeCommand [0x02, 0x21, 0x11, 0x00] = .error .truncated ∧
    decodeFrame Config.p0 [0x02, 0x11, 0x20, 0xA3, 0x01, 0xD7] = .error .badDomain ∧
    decodeFrame Config.p0 [0x01, 0x22, 0x11, 0x00, 0x29, 0x5D] = .error .badAddress ∧
    decodeFrame Config.p0 [0x01, 0x11, 0x20] = .error .truncated := by decide

/-- The words of spec/opcode_table.json: `match` of the operation rows, `p0_match` of the frame rows. -/
theorem test_table_words_of_operations :
    [0x01, 0x02, 0x03, 0x04, 0x05, 0x06, 0x07, 0x08, 0x0F].map (decodeTableWord 8) =
      [some (.csum 0 0 0 0 0), some (.enc 0 0 0 0), some (.vfy ⟨0, 0, 0, 0, 0, 0⟩), some (.dec ⟨0, 0, 0, 0, 0, 0⟩),
        some (.aflt ⟨0, 0, 0, 0, 0, 0⟩), some (.txf ⟨0, 0, 0, 0, 0, 0⟩), some .rxb, some .rdf, some .rst] := by decide

theorem test_table_words_of_frames :
    [0x011120000000, 0x011121000000, 0x011111000000, 0x011110000000, 0x012120000000, 0x012121000000,
        0x012111000000, 0x012110000000].map (decodeTableWord 48) =
      [some (.frmMb1Panels 0 0 0), some (.frmMb1Panel1 0 0 0), some (.frmMb1Mb1 0 0 0), some (.frmMb1Mbs 0 0 0),
        some (.frmP1Panels 0 0 0), some (.frmP1Panel1 0 0 0), some (.frmP1Mb1 0 0 0),
        some (.frmP1Mbs 0 0 0)] := by decide

/-- A table word runs as the first instruction after reset: `RDF` finds `RX` empty, and the zero frame of a class is
dropped for its checksum (R107, R106). -/
theorem test_table_words_run_first :
    answerBytes (after (step (State.reset.withFetchWord 8 0x08))) = [[0x01]] ∧
    (after (step (State.reset.withFetchWord 8 0x08))).port = [] ∧
    (after (step (State.reset.withFetchWord 48 0x011120000000))).trace =
      [.dropCsum ⟨0x01, 0x11, 0x20, 0x00, 0x00, 0x00⟩] := by decide

/-! The codec operations. -/

/-- V-CS-4 and V-CS-6. -/
theorem test_csum :
    answerBytes (after (exec (.csum 0x01 0x11 0x21 0x29 0xA4) State.reset)) = [[0x00, 0x00]] ∧
    answerBytes (after (exec (.csum 0xFF 0xFF 0xFF 0xFF 0xFF) State.reset)) = [[0x00, 0xFB]] := by decide

/-- V-EN-5 and V-EN-7. -/
theorem test_enc :
    answerBytes (after (exec (.enc 0x22 0x11 0x00 0x29) State.reset)) =
      [[0x00, 0x01, 0x22, 0x11, 0x00, 0x29, 0x5D]] ∧
    answerBytes (after (exec (.enc 0xFF 0xFF 0xFF 0xFF) State.reset)) =
      [[0x00, 0x01, 0xFF, 0xFF, 0xFF, 0xFF, 0xFD]] := by decide

/-- V-VF-6, V-VF-8 and V-VF-9. -/
theorem test_vfy :
    answerBytes (after (exec (.vfy ⟨0x01, 0x11, 0x21, 0x29, 0x06, 0x63⟩) State.reset)) = [[0x00, 0x00]] ∧
    answerBytes (after (exec (.vfy ⟨0x01, 0x11, 0x21, 0x2A, 0x06, 0x63⟩) State.reset)) = [[0x00, 0x01]] ∧
    answerBytes (after (exec (.vfy ⟨0, 0, 0, 0, 0, 0⟩) State.reset)) = [[0x00, 0x01]] := by decide

/-- V-DE-4, V-DE-5, V-DE-7 (strict). -/
theorem test_dec_strict :
    answerBytes (after (exec (.dec ⟨0x02, 0x11, 0x21, 0x29, 0x07, 0x63⟩) State.reset)) = [[0x10]] ∧
    answerBytes (after (exec (.dec bad) State.reset)) = [[0x11]] ∧
    answerBytes (after (exec (.dec stray) State.reset)) = [[0x00, 0x01, 0x22, 0x11, 0x00, 0x29, 0x5D]] := by decide

/-- V-DE-6 and V-DE-8 (lenient). -/
theorem test_dec_lenient :
    answerBytes (after (exec (.dec bad) (lenientAt 0 good []))) = [[0x00, 0x01, 0x11, 0x21, 0x29, 0x07, 0x64]] ∧
    answerBytes (after (exec (.dec ⟨0x02, 0x11, 0x21, 0x29, 0x07, 0x63⟩) (lenientAt 0 good []))) = [[0x10]] := by
  decide

/-- V-AF-1 to V-AF-8: all eight pairs. -/
theorem test_aflt_accepts :
    ∀ s ∈ ([0x11, 0x21] : List Byte), ∀ r ∈ ([0x20, 0x21, 0x11, 0x10] : List Byte),
      answerBytes (after (exec (.aflt ⟨0x01, s, r, 0, 0, 0⟩) State.reset)) = [[0x00, 0x01]] := by decide

/-- V-AF-9, V-AF-10, V-AF-11, V-AF-13. -/
theorem test_aflt_rejects :
    ([(0x22, 0x11), (0x11, 0x22), (0x10, 0x21), (0x11, 0x01)] : List (Byte × Byte)).map
        (fun p => answerBytes (after (exec (.aflt ⟨0x01, p.1, p.2, 0, 0, 0⟩) State.reset))) =
      List.replicate 4 [[0x00, 0x00]] := by decide

/-! The transport operations. -/

/-- V-TX-2, and `idx` unchanged. -/
theorem test_txf :
    (after (exec (.txf ⟨0x01, 0x21, 0x20, 0x29, 0x0F, 0x7A⟩)
      { readerAt 3 good [0x05] with tx := [0x01, 0x21, 0x10, 0x29, 0x0F, 0x6A] })).tx =
      [0x01, 0x21, 0x10, 0x29, 0x0F, 0x6A, 0x01, 0x21, 0x20, 0x29, 0x0F, 0x7A] ∧
    (after (exec (.txf stray) (readerAt 3 good [0x05]))).idx = 3 := by decide

/-- V-RB-1 step 1 and V-RB-4. -/
theorem test_rxb_skips_and_stores :
    (after (exec .rxb (readerAt 0 good [0xFF, 0x01]))).trace = [.skip 0xFF] ∧
    (after (exec .rxb (readerAt 2 good [0x01]))).buf.receiver = 0x01 ∧
    (after (exec .rxb (readerAt 2 good [0x01]))).idx = 3 := by decide

/-- V-RB-2 and V-RB-3. -/
theorem test_rxb_completes :
    (after (exec .rxb (readerAt 5 good [0x64]))).trace = [.dropCsum bad] ∧
    answerBytes (after (exec .rxb (lenientAt 5 good [0x64]))) = [[0x00, 0x01, 0x11, 0x21, 0x29, 0x07, 0x64]] ∧
    (after (exec .rxb (lenientAt 5 stray [0x5D]))).trace = [.dropAddr stray] := by decide

/-- A turn of `RDF` on noise goes on without an answer; on the last byte of a frame it ends with it (R107). -/
theorem test_rdf_turns :
    (after (exec .rdf (readerAt 0 good [0xFF, 0x01]))).rdfActive = true ∧
    answerBytes (after (exec .rdf (readerAt 0 good [0xFF, 0x01]))) = [] ∧
    (after (exec .rdf (readerAt 5 good [0x63, 0x05]))).rdfActive = false ∧
    answerBytes (after (exec .rdf (readerAt 5 good [0x63, 0x05]))) =
      [[0x00, 0x01, 0x11, 0x21, 0x29, 0x07, 0x63]] := by decide

/-- V-RS-1, its first line. -/
theorem test_rst :
    (after (exec .rst (readerAt 3 good [0x29, 0x01]))).idx = 0 ∧
    (after (exec .rst (readerAt 3 good [0x29, 0x01]))).rx = [0x29, 0x01] := by decide

/-- V-OP-1: `BAD_OP`, one byte taken. -/
theorem test_bad_op :
    answerBytes (after (step { State.reset with port := [0x09, 0x07] })) = [[0x7F]] ∧
    (after (step { State.reset with port := [0x09, 0x07] })).port = [0x07] := by decide

/-- Each frame class accepts a frame of its own with the right checksum (R64, R106; sums by hand). -/
theorem test_frame_classes_accept :
    ∀ i ∈ ([.frmMb1Panels 0xA3 0x01 0xD6, .frmMb1Panel1 0x29 0x07 0x63, .frmMb1Mb1 0x29 0x07 0x53,
        .frmMb1Mbs 0x29 0x07 0x52, .frmP1Panels 0x29 0x0F 0x7A, .frmP1Panel1 0x29 0x0F 0x7B,
        .frmP1Mb1 0x00 0x29 0x5C, .frmP1Mbs 0x29 0x0F 0x6A] : List Instr),
      ((after (exec i State.reset)).answers.map Answer.status) = [.ok] := by decide

/-- Each frame class drops a frame with a checksum of 0 in strict mode; an `RDF` that reads it goes on. -/
theorem test_frame_classes_drop :
    ∀ i ∈ ([.frmMb1Panels 0xA3 0x01 0, .frmMb1Panel1 0x29 0x07 0, .frmMb1Mb1 0x29 0x07 0, .frmMb1Mbs 0x29 0x07 0,
        .frmP1Panels 0x29 0x0F 0, .frmP1Panel1 0x29 0x0F 0, .frmP1Mb1 0x00 0x29 0, .frmP1Mbs 0x29 0x0F 0] :
          List Instr),
      ((after (exec i State.reset)).answers.map Answer.status) = [.consumed] ∧
      (after (exec i { State.reset with rdfActive := true })).answers = [] := by decide

/-- Arrivals land before the block acts, and the loop of arrivals starts over (R40, R108). -/
theorem test_arrivals_land :
    (State.land { State.reset with arrivals := [[0x01, 0x02], [0x03]] }).rx = [0x01, 0x02] ∧
    (State.land { State.reset with arrivalLoop := [[0x07], [0x08]] }).rx = [0x07] ∧
    (State.land { State.reset with arrivalLoop := [[0x07], [0x08]] }).arrivals = [[0x08]] := by decide

/-- V-DF-1, V-RD-2 and V-RD-8L. -/
theorem test_deframe :
    deframe Config.p0 [] [0x00, 0x7E, 0x01, 0x11, 0x20, 0xA3, 0x01, 0xD6, 0x01, 0x21, 0x11] =
      ([⟨0x01, 0x11, 0x20, 0xA3, 0x01, 0xD6⟩], [0x01, 0x21, 0x11]) ∧
    deframe Config.p0 [] [0x01, 0xFF, 0x01, 0x11, 0x21, 0x29, 0x07, 0x63] = ([], []) ∧
    deframe { Config.p0 with verifyChecksum := false } []
      [0x01, 0x11, 0x21, 0x07, 0x63, 0x01, 0x11, 0x21, 0x29, 0x07, 0x63] =
      ([⟨0x01, 0x11, 0x21, 0x07, 0x63, 0x01⟩], []) := by decide

/-! Witnesses: for each statement with hypotheses, a state and operands that meet all of them. -/

theorem witness_checksumSumLaws :
    [0x01, 0x21, 0x11, 0x00, 0x29].Perm ([0x21, 0x01, 0x11, 0x29, 0x00] : List Byte) ∧
    ((0 : Fin 6) ≠ 5 ∧ (0x02 : Byte) ≠ good.get 0) ∧ ((4 : Fin 6) ≠ 5 ∧ (0x06 : Byte) ≠ good.get 4) ∧
    ((3 : Fin 6) ≠ 5 ∧ (4 : Fin 6) ≠ 5 ∧ (3 : Fin 6) ≠ 4) := by decide

theorem witness_codecOperationsOnlyAnswer :
    (∃ b0 b1 b2 b3 b4, Instr.csum 0 0 0 0 0 = .csum b0 b1 b2 b3 b4) ∧
    (∃ a r v x, Instr.enc 0 0 0 0 = .enc a r v x) ∧ (∃ b, Instr.vfy good = .vfy b) ∧
    (∃ b, Instr.dec good = .dec b) ∧ (∃ b, Instr.aflt good = .aflt b) :=
  ⟨⟨_, _, _, _, _, rfl⟩, ⟨_, _, _, _, rfl⟩, ⟨_, rfl⟩, ⟨_, rfl⟩, ⟨_, rfl⟩⟩

/-- Strict and lenient states with one domain byte, and two states with one parameter binding. -/
theorem witness_encodeThenDecodeRoundTrip :
    (lenientAt 0 good []).cfg.domain = State.reset.cfg.domain ∧ (readerAt 3 bad [0x07]).cfg = State.reset.cfg := by
  decide

theorem witness_singleByteMutationFailsVfy :
    (0x02 : Byte) ≠ (buildFrame Config.p0 0x11 0x21 0x29 0x07).get 0 ∧
    (0x64 : Byte) ≠ (buildFrame Config.p0 0x11 0x21 0x29 0x07).get 5 ∧
    ((3 : Fin 6) ≠ 5 ∧ (4 : Fin 6) ≠ 5 ∧ (3 : Fin 6) ≠ 4) := by decide

theorem witness_memReadPopsHead :
    (readerAt 0 good [0x05]).rx = 0x05 :: [] ∧ State.reset.rx = [] := by decide

theorem witness_emptyQueue : (readerAt 3 good []).rx = [] ∧ (readerAt 0 good []).rx = [] := by decide

theorem witness_rxbSkipsNoise :
    (readerAt 0 good [0xFF]).idx = 0 ∧ (readerAt 0 good [0xFF]).rx = 0xFF :: [] ∧
    (0xFF : Byte) ≠ (readerAt 0 good [0xFF]).cfg.domain := by decide

theorem witness_rxbSyncsOnDomain :
    (readerAt 0 bad [0x01]).idx = 0 ∧ (readerAt 0 bad [0x01]).rx = 0x01 :: [] ∧
    (0x01 : Byte) = (readerAt 0 bad [0x01]).cfg.domain := by decide

/-- At both ends of the range, with a byte equal to `DOMAIN`. -/
theorem witness_rxbStoresInsideFrame :
    (1 ≤ (readerAt 1 good [0x01]).idx.val ∧ (readerAt 1 good [0x01]).idx.val ≤ 4 ∧
      (2 : Fin 6).val = (readerAt 1 good [0x01]).idx.val + 1 ∧ (readerAt 1 good [0x01]).rx = 0x01 :: []) ∧
    (1 ≤ (readerAt 4 good [0x01]).idx.val ∧ (readerAt 4 good [0x01]).idx.val ≤ 4 ∧
      (5 : Fin 6).val = (readerAt 4 good [0x01]).idx.val + 1 ∧ (readerAt 4 good [0x01]).rx = 0x01 :: []) := by decide

/-- One state for each end of a frame. -/
theorem witness_rxbCompletesFrame :
    ((readerAt 5 bad [0x63]).idx = 5 ∧ (readerAt 5 bad [0x63]).rx = 0x63 :: [] ∧
      good = { (readerAt 5 bad [0x63]).buf with checksum := 0x63 } ∧ accept Config.p0 good = true) ∧
    ((readerAt 5 good [0x64]).rx = 0x64 :: [] ∧ bad = { (readerAt 5 good [0x64]).buf with checksum := 0x64 } ∧
      addrOK Config.p0 bad = true ∧ bad.checksum ≠ frameCsum bad) ∧
    ((readerAt 5 stray [0x5D]).rx = 0x5D :: [] ∧ addrOK Config.p0 stray = false) := by decide

/-- A byte at `idx` 0, 1 and 5; an operation that is no reader operation and no frame class. -/
theorem witness_readerStateGraph :
    (readerAt 0 good [0x01]).rx = 0x01 :: [] ∧ (readerAt 1 good [0x01]).rx = 0x01 :: [] ∧
    (readerAt 5 good [0x63]).rx = 0x63 :: [] ∧ (readerAt 5 good []).rx = [] ∧
    (Instr.txf good ≠ .rxb ∧ Instr.txf good ≠ .rdf ∧ Instr.txf good ≠ .rst ∧
      (Instr.txf good).frame? State.reset.cfg = none) := by decide

theorem witness_rdfReturnsAcceptedFrame :
    (readerAt 5 bad [0x63, 0x05]).idx = 5 ∧ (readerAt 5 bad [0x63, 0x05]).rx = 0x63 :: [0x05] ∧
    good = { (readerAt 5 bad [0x63, 0x05]).buf with checksum := 0x63 } ∧
    accept (readerAt 5 bad [0x63, 0x05]).cfg good = true := by decide

theorem witness_acceptedFramesAreTheEightClasses :
    (good.domain = Config.p0.domain ∧ good.sender = Config.p0.mainboard1 ∧ good.receiver = Config.p0.panel1 ∧
      good.checksum = csum good.domain good.sender good.receiver good.variableId good.value) ∧
    (Instr.frmMb1Panel1 0x29 0x07 0x63).frame? Config.p0 = some good ∧
    (Instr.frmMb1Panel1 0x29 0x07 0x63).wellFormed Config.p0 = true := by decide

theorem witness_frameClassesAreAccepted :
    ∀ i ∈ ([.frmMb1Panels 0xA3 0x01 0xD6, .frmMb1Panel1 0x29 0x07 0x63, .frmMb1Mb1 0x29 0x07 0x53,
        .frmMb1Mbs 0x29 0x07 0x52, .frmP1Panels 0x29 0x0F 0x7A, .frmP1Panel1 0x29 0x0F 0x7B,
        .frmP1Mb1 0x00 0x29 0x5C, .frmP1Mbs 0x29 0x0F 0x6A] : List Instr),
      (i.frame? State.reset.cfg).isSome = true ∧ i.wellFormed State.reset.cfg = true := by decide

theorem witness_frameClassesDroppedOnWrongChecksum :
    (Instr.frmMb1Panel1 0x29 0x07 0x64).frame? State.reset.cfg = some bad ∧ State.reset.cfg.verifyChecksum = true ∧
    bad.checksum ≠ csum bad.domain bad.sender bad.receiver bad.variableId bad.value := by decide

theorem witness_byteStepRunsFrameClass :
    (readerAt 5 bad [0x63]).idx = 5 ∧ (readerAt 5 bad [0x63]).rx = 0x63 :: [] ∧
    classify (readerAt 5 bad [0x63]).cfg ((readerAt 5 bad [0x63]).buf.set 5 0x63) =
      .ok (.frmMb1Panel1 0x29 0x07 0x63) ∧ (readerAt 5 bad [0x63]).rdfActive = false := by decide

theorem witness_stepRunsDecodedCommand :
    ({ State.reset with port := [0x0F, 0x07] } : State).rdfActive = false ∧
    decodeCommand ({ State.reset with port := [0x0F, 0x07] } : State).port = .ok (.rst, [0x07]) := by decide

theorem witness_stepContinuesRdf : ({ State.reset with rdfActive := true } : State).rdfActive = true := rfl

theorem witness_stepRunsDecodedFrame :
    ({ readerAt 5 bad [0x63] with port := [0x07] } : State).rdfActive = false ∧
    decodeCommand ({ readerAt 5 bad [0x63] with port := [0x07] } : State).port = .ok (.rxb, []) ∧
    ({ readerAt 5 bad [0x63] with port := [0x07] } : State).idx = 5 ∧
    (State.land { readerAt 5 bad [0x63] with port := [0x07] }).rx = 0x63 :: [] ∧
    classify Config.p0 (({ readerAt 5 bad [0x63] with port := [0x07] } : State).buf.set 5 0x63) =
      .ok (.frmMb1Panel1 0x29 0x07 0x63) := by decide

theorem witness_stepWaitsForWholeCommand :
    State.reset.rdfActive = false ∧ decodeCommand State.reset.port = .error .noBytes ∧
    decodeCommand ({ State.reset with port := [0x01, 0, 0, 0, 0] } : State).port = .error .truncated := by decide

/-- At the ends of the unassigned ranges of R68. -/
theorem witness_unassignedCodeAnswersBadOp :
    ∀ code ∈ ([0x00, 0x09, 0x0E, 0x10, 0xFF] : List Byte),
      ({ State.reset with port := code :: [0x07] } : State).rdfActive = false ∧
      ({ State.reset with port := code :: [0x07] } : State).port = code :: [0x07] ∧
      code ∉ ([0x01, 0x02, 0x03, 0x04, 0x05, 0x06, 0x07, 0x08, 0x0F] : List Byte) := by decide

/-- A schedule and a loop; an unbounded queue, and a bounded one that is exactly filled. -/
theorem witness_arrivalsAppendInOrder :
    (({ State.reset with arrivalLoop := [[0x01]] } : State).arrivals = [] ∧
      ({ State.reset with arrivalLoop := [[0x01]] } : State).arrivalLoop = [0x01] :: []) ∧
    ({ State.reset with arrivals := [[0x01]] } : State).arrivals = [0x01] :: [] ∧
    (∀ cap, State.reset.cfg.rxqCap = some cap → State.reset.rx.length + [0x01].length ≤ cap) ∧
    (∀ cap, ({ Config.p0 with rxqCap := some 1 } : Config).rxqCap = some cap → 0 + [0x01].length ≤ cap) :=
  ⟨⟨rfl, rfl⟩, rfl, fun cap h => by simp [State.reset, Config.p0] at h, fun cap h => by simp at h; simp [← h]⟩

/-- A queue that is exactly full. -/
theorem witness_overflowTouchesOnlyTheQueue :
    ∃ s : State, s.cfg.rxqCap = some 1 ∧ 1 ≤ s.rx.length :=
  ⟨{ readerAt 0 good [0x05] with cfg := { Config.p0 with rxqCap := some 1 } }, rfl, by decide⟩

/-- Every step from every state is a next state, so the hypothesis `step s = .next t` is met; here from reset. -/
theorem witness_stepGoesOn : goesOn (step State.reset) = true ∧ goesOn (exec .rxb State.reset) = true := by decide

theorem witness_everyStepKeepsInvariant : ∃ s t : State, s.Inv ∧ step s = .next t :=
  ⟨State.reset, State.reset,
    ⟨fun h => by simp [State.phase, State.reset] at h, fun _ _ => Nat.zero_le _,
      fun _ h => by simp [State.reset] at h, rfl⟩, rfl⟩

/-- Two states that hold two bytes and differ in the other four registers. -/
theorem witness_staleBufferNeverObserved :
    (readerAt 2 good [0x01]).SameVisible (readerAt 2 ⟨0x01, 0x11, 0, 0, 0, 0⟩ [0x01]) := ⟨rfl, rfl⟩

theorem witness_strictReaderAnswersWellFormed :
    ∃ s t : State, s.HeldDomain ∧ s.cfg.verifyChecksum = true ∧ exec .rxb s = .next t ∧
      t.answers = s.answers ++ [⟨.ok, good.bytes⟩] :=
  ⟨readerAt 5 bad [0x63], after (exec .rxb (readerAt 5 bad [0x63])), fun _ => rfl, rfl, rfl, rfl⟩

theorem witness_lenientReaderIgnoresChecksum :
    ({ Config.p0 with verifyChecksum := false } : Config).verifyChecksum = false ∧
    bad.domain = ({ Config.p0 with verifyChecksum := false } : Config).domain := by decide

/-- A silent line, a frame in the queue and two `RDF` on the port: one for the frame, one more. -/
theorem witness_drainingAnswersDeframe :
    ({ readerAt 0 good good.bytes with port := [0x08, 0x08] } : State).Quiet ∧
    ({ readerAt 0 good good.bytes with port := [0x08, 0x08] } : State).rdfActive = false ∧
    [0x08, 0x08] = List.replicate ((deframe Config.p0 (readerAt 0 good good.bytes).held good.bytes).1.length + 1)
      (0x08 : Byte) := ⟨⟨rfl, rfl⟩, rfl, rfl⟩

theorem witness_acceptedFramesDependOnBytesOnly :
    ({ State.reset with port := [0x08, 0x07], arrivals := [[0x01]] } : State).cfg.rxqCap = none ∧
    (0x0F : Byte) ∉ ({ State.reset with port := [0x08, 0x07], arrivals := [[0x01]] } : State).port := by decide

theorem witness_rdfEndsWhenNothingArrives :
    ({ readerAt 0 good [0xFF] with rdfActive := true } : State).Quiet ∧
    ({ readerAt 0 good [0xFF] with rdfActive := true } : State).rdfActive = true := ⟨⟨rfl, rfl⟩, rfl⟩

theorem witness_endlessNoiseKeepsRdfGoing :
    ∃ s : State, s.rdfActive = true ∧ s.idx = 0 ∧ s.rx = [] ∧ s.arrivals = [] ∧ s.arrivalLoop = [[0xFF]] ∧
      (0xFF : Byte) ≠ s.cfg.domain ∧ (∀ cap, s.cfg.rxqCap = some cap → 0 < cap) :=
  ⟨{ State.reset with rdfActive := true, arrivalLoop := [[0xFF]], cfg := { Config.p0 with rxqCap := some 1 } },
    rfl, rfl, rfl, rfl, rfl, by decide, fun cap h => by simp at h; omega⟩

theorem witness_commandRoundTrips :
    (Instr.enc 0xFF 0x00 0x0F 0x01).frame? Config.p0 = none ∧
    decodeCommand [0x0F, 0x0F] = .ok (.rst, [0x0F]) := by decide

theorem witness_frameRoundTrips :
    addressesDistinct Config.p0 ∧ (Instr.frmP1Mbs 0x29 0x0F 0x6A).frame? Config.p0 =
      some ⟨0x01, 0x21, 0x10, 0x29, 0x0F, 0x6A⟩ ∧
    decodeFrame Config.p0 [0x01, 0x21, 0x10, 0x29, 0x0F, 0x6A, 0x07] = .ok (.frmP1Mbs 0x29 0x0F 0x6A, [0x07]) ∧
    (bad.domain = Config.p0.domain ∧ addrOK Config.p0 bad = true) :=
  ⟨by unfold addressesDistinct; decide, rfl, rfl, by decide⟩

/-- The first and the last row match their own codes, and not the codes that differ from those in the high half (R67). -/
theorem witness_operationCodesUnambiguous :
    (⟨0x01, 0xFF, .csum, 6⟩ : OpRow) ∈ opTable ∧ (⟨0x01, 0xFF, .csum, 6⟩ : OpRow).hits 0x01 = true ∧
    (⟨0x01, 0xFF, .csum, 6⟩ : OpRow).hits 0x81 = false ∧
    (⟨0x0F, 0xFF, .rst, 1⟩ : OpRow) ∈ opTable ∧ (⟨0x0F, 0xFF, .rst, 1⟩ : OpRow).hits 0x0F = true ∧
    (⟨0x0F, 0xFF, .rst, 1⟩ : OpRow).hits 0x1F = false := by decide

end Sys2Proof.Tests
end

section
/-! The 48-bit drawing of a frame, R10 and R61: a word drawn byte by byte, the low byte last. -/

namespace Sys2Proof.Drawing
open Sys2Proof Sys2Proof.Machine

/-- The word drawn by writing byte `b` below the bytes of `w`. -/
def pushByte (w : Nat) (b : Byte) : Nat := w * 256 + b.toNat

@[simp] theorem byteOf_pushByte_zero (w : Nat) (b : Byte) : byteOf (pushByte w b) 0 = b := by
  apply BitVec.eq_of_toNat_eq
  simp [byteOf, pushByte, Nat.mod_eq_of_lt b.isLt]

@[simp] theorem byteOf_pushByte_succ (w : Nat) (b : Byte) (k : Nat) :
    byteOf (pushByte w b) (k + 1) = byteOf w k := by
  have hdiv : (w * 256 + b.toNat) / 256 = w := by
    have hb := b.isLt
    omega
  rw [byteOf, byteOf, pushByte, pow_succ', ← Nat.div_div_eq_div_mul, hdiv]

/-- Six bytes pushed in wire order are read back as the frame's fields, byte 0 highest (R61). -/
theorem wordFrame_pushBytes (f : Frame) : wordFrame (f.bytes.foldl pushByte 0) = f := by
  simp [wordFrame, Frame.bytes]

/-- R10's weights are the ones that pushing the bytes in wire order gives. -/
theorem weighted_eq_pushBytes (f : Frame) :
    f.domain.toNat * 2 ^ 40 + f.sender.toNat * 2 ^ 32 + f.receiver.toNat * 2 ^ 24 +
      f.variableId.toNat * 2 ^ 16 + f.value.toNat * 2 ^ 8 + f.checksum.toNat =
    f.bytes.foldl pushByte 0 := by
  simp only [Frame.bytes, List.foldl, pushByte]
  ring

/-- Settles O56: R10's weights draw the word that pushing the six bytes in wire order gives, and reading that word
takes the pushes back one by one. -/
theorem frameWordDrawsByteZeroFirst : Obligations.FrameWordDrawsByteZeroFirst := by
  intro f
  rw [weighted_eq_pushBytes, wordFrame_pushBytes]

end Sys2Proof.Drawing
end

section
/-! The reader's byte step for the rules of spec/10_state.md: what it leaves alone, and the bytes held after it. -/

namespace Sys2Proof.StateRules
open Sys2Proof Sys2Proof.Machine

/-- A byte stored past the first register leaves byte 0, the domain byte of the frame in progress (R33 (b)). -/
theorem frame_set_domain (f : Frame) (k : Fin 6) (v : Byte) (hk : k ≠ 0) : (f.set k v).domain = f.domain :=
  frame_get_set_other f 0 k v hk.symm

/-- CLOSE leaves the frame in the buffer and the reader in HUNT, and writes one event (R106). -/
theorem closeFrame_frame (b : Frame) (s : State) :
    ∃ e, (closeFrame b s).2 = ((s.setBuf b).setIdx 0).emit e := by
  rcases closeFrame_cases b s with ⟨_, h⟩ | ⟨_, h⟩ | ⟨_, _, h⟩ <;> exact ⟨_, by rw [h]⟩

@[simp] theorem closeFrame_cfg (b : Frame) (s : State) : (closeFrame b s).2.cfg = s.cfg := by
  obtain ⟨_, h⟩ := closeFrame_frame b s; rw [h]; rfl

@[simp] theorem closeFrame_idx (b : Frame) (s : State) : (closeFrame b s).2.idx = 0 := by
  obtain ⟨_, h⟩ := closeFrame_frame b s; rw [h]; rfl

/-- A byte step on a byte writes `idx`, the buffer and the trace, and nothing else (R102 to R106). -/
theorem takeByte_frame (b : Byte) (s : State) :
    ∃ k f tr, (takeByte b s).2 = { s with idx := k, buf := f, trace := tr } := by
  rcases takeByte_cases b s with ⟨_, _, h⟩ | ⟨_, _, h⟩ | ⟨_, _, h⟩ | ⟨_, h⟩
  · exact ⟨_, _, _, by rw [h]; rfl⟩
  · exact ⟨_, _, _, by rw [h]; rfl⟩
  · exact ⟨_, _, _, by rw [h]; rfl⟩
  · obtain ⟨_, hc⟩ := closeFrame_frame (s.buf.set 5 b) s
    exact ⟨_, _, _, by rw [h, hc]; rfl⟩

@[simp] theorem takeByte_cfg (b : Byte) (s : State) : (takeByte b s).2.cfg = s.cfg := by
  obtain ⟨_, _, _, h⟩ := takeByte_frame b s; rw [h]

@[simp] theorem takeByte_rx (b : Byte) (s : State) : (takeByte b s).2.rx = s.rx := by
  obtain ⟨_, _, _, h⟩ := takeByte_frame b s; rw [h]

theorem takeByte_skip (b : Byte) (s : State) (h0 : s.idx = 0) (hb : b ≠ s.cfg.domain) :
    takeByte b s = (.consumed, s.emit (.skip b)) := by
  simp [takeByte, h0, hb]

theorem takeByte_store (b : Byte) (s : State) (h0 : s.idx ≠ 0) (h5 : s.idx ≠ 5) :
    takeByte b s = (.consumed, (s.writeBuf s.idx b).setIdx (s.idx + 1)) := by
  simp [takeByte, h0, h5]

theorem takeByte_close (b : Byte) (s : State) (h5 : s.idx = 5) :
    takeByte b s = closeFrame (s.buf.set 5 b) s := by
  simp [takeByte, h5]

/-- SYNC stores the byte at `buf[idx]` and moves on, as STORE does, and emits an event besides (R104, R105). -/
theorem takeByte_sync (b : Byte) (s : State) (h0 : s.idx = 0) (hb : b = s.cfg.domain) :
    takeByte b s = (.consumed, ((s.writeBuf s.idx b).setIdx (s.idx + 1)).emit .sync) := by
  simp [takeByte, h0, hb]

/-- A byte that neither ended a frame nor was skipped is the newest byte held (R33 (c)). -/
theorem takeByte_held (b : Byte) (s : State) (h : (takeByte b s).2.idx ≠ 0) :
    (takeByte b s).2.held = s.held ++ [b] := by
  rcases takeByte_cases b s with ⟨h0, _, e⟩ | ⟨h0, hb, _⟩ | ⟨_, h5, e⟩ | ⟨_, e⟩
  · rw [e] at h
    exact absurd h0 h
  · rw [takeByte_sync b s h0 hb]
    exact held_store s b (by simp [h0])
  · rw [e]
    exact held_store s b h5
  · rw [e] at h
    exact absurd (closeFrame_idx _ s) h

/-- Settles O18: `RXB` answers the byte step on the head of `RX`, and an answer leaves `RX` and the bytes held. -/
theorem takenByteIsNewestHeld : Obligations.TakenByteIsNewestHeld := by
  intro s b q hq
  refine ⟨_, execRxb_cons s b q hq, by simp, fun h => ?_⟩
  rw [finishRxb_idx] at h
  rw [finishRxb_held, takeByte_held b _ h, setRx_held]

end Sys2Proof.StateRules
end

section
/-! What every step keeps follows from what the arrivals, the host port's primitives and `exec` keep; and the parameters
(spec/10_state.md R25, R26). -/

namespace Sys2Proof.StateRules
open Sys2Proof Sys2Proof.Machine

/-- A property of the state that survives the arrivals, the taking of command bytes, an answer and every instruction
survives the step. -/
theorem step_keeps {P : State → Prop} (land : ∀ u, P u → P u.land) (setPort : ∀ u q, P u → P (u.setPort q))
    (answer : ∀ u st d, P u → P (u.answer st d)) (exec_keeps : ∀ i u v, P u → exec i u = .next v → P v)
    {s t : State} (hs : P s) (h : step s = .next t) : P t := by
  rcases step_cases s with ⟨_, e⟩ | ⟨_, _, e⟩ | ⟨_, rest, _, e⟩ | ⟨_, i, rest, _, e⟩ <;> rw [e] at h
  · exact exec_keeps _ _ _ (land s hs) h
  · cases h
    exact land s hs
  · cases h
    exact answer _ _ _ (setPort _ rest (land s hs))
  · exact exec_keeps i _ _ (setPort _ rest (land s hs)) h

@[simp] theorem receiveFrame_cfg (b : Frame) (s : State) : (receiveFrame b s).cfg = s.cfg := by
  rw [receiveFrame_eq]
  split <;> simp

theorem exec_cfg (i : Instr) (s t : State) (h : exec i s = .next t) : t.cfg = s.cfg := by
  cases exec_effect i s t h with
  | answered | wrote | restarted => rfl
  | rxbEmpty | rdfEmpty | rxbTook | rdfTook | received => simp

/-- Settles O37: the parameters are a property of the state that every part of a step keeps. -/
theorem parametersNeverChange : Obligations.ParametersNeverChange := by
  refine ⟨exec_cfg, fun s t h => ?_⟩
  exact step_keeps (P := fun u => u.cfg = s.cfg) (fun u hu => (land_cfg u).trans hu) (fun _ _ hu => hu)
    (fun _ _ _ hu => hu) (fun i u v hu hv => (exec_cfg i u v hv).trans hu) rfl h

end Sys2Proof.StateRules
end

section
/-! The codec operations answer from the parameters and their operands alone (spec/10_state.md R20). -/

namespace Sys2Proof.StateRules
open Sys2Proof Sys2Proof.Machine

/-- What a codec operation answers under a binding of the parameters, `none` for every other instruction. -/
def codecAnswer? (c : Config) : Instr → Option Answer
  | .csum b0 b1 b2 b3 b4 => some ⟨.ok, [csum b0 b1 b2 b3 b4]⟩
  | .enc a r v x => some ⟨.ok, (buildFrame c a r v x).bytes⟩
  | .vfy b => some ⟨.ok, [boolByte (checksumOK b)]⟩
  | .dec b =>
    some (if domainOK c b then if checksumPasses c b then ⟨.ok, b.bytes⟩ else ⟨.badChecksum, []⟩
      else ⟨.badDomain, []⟩)
  | .aflt b => some ⟨.ok, [boolByte (addrOK c b)]⟩
  | _ => none

/-- A codec operation gives its answer and does nothing else. -/
theorem exec_codec (i : Instr) (s : State) (a : Answer) (h : codecAnswer? s.cfg i = some a) :
    exec i s = .next (s.answer a.status a.data) := by
  cases i <;> cases h
  case dec b =>
    simp only [exec, execDec]
    split_ifs <;> rfl
  all_goals rfl

/-- Settles O7: each of the five operations has an answer that the parameters and its operands fix. -/
theorem codecOperationsOnlyAnswer : Obligations.CodecOperationsOnlyAnswer := by
  intro s i h
  have ⟨a, ha⟩ : ∃ a, codecAnswer? s.cfg i = some a := by
    rcases h with ⟨_, _, _, _, _, rfl⟩ | ⟨_, _, _, _, rfl⟩ | ⟨_, rfl⟩ | ⟨_, rfl⟩ | ⟨_, rfl⟩ <;> exact ⟨_, rfl⟩
  exact ⟨a, exec_codec i s a ha⟩

end Sys2Proof.StateRules
end

section
/-! The machine invariant (spec/10_state.md R33 (b), spec/20_memory.md R40, R43): one rule for each part of the state it
speaks of, then the shared operations, then every instruction. -/

namespace Sys2Proof.StateRules
open Sys2Proof Sys2Proof.Machine

/-- The invariant says nothing of the host port. -/
theorem inv_hostSide {s : State} (h : s.Inv) (port : List Byte) (rdf : Bool) (answers : List Answer) :
    State.Inv { s with port := port, rdfActive := rdf, answers := answers } :=
  ⟨h.heldDomain, h.rxBounded, h.traceJustified, h.txRecorded⟩

/-- The invariant does not read the schedule of arrivals and the count of free values; of `RX` it reads the length. -/
theorem inv_queue {s : State} (h : s.Inv) (q : List Byte) (arrivals : List (List Byte)) (draws : Nat)
    (hq : ∀ cap, s.cfg.rxqCap = some cap → q.length ≤ cap) :
    State.Inv { s with rx := q, arrivals := arrivals, draws := draws } :=
  ⟨h.heldDomain, hq, h.traceJustified, h.txRecorded⟩

/-- The buffer may hold anything in HUNT, and in COLLECT anything that starts with the domain byte. -/
theorem inv_reader {s : State} (h : s.Inv) (k : Fin 6) (f : Frame) (hf : k ≠ 0 → f.domain = s.cfg.domain) :
    ((s.setBuf f).setIdx k).Inv :=
  ⟨fun hk => hf ((phase_collect_iff _).1 hk), h.rxBounded, h.traceJustified, h.txRecorded⟩

/-- Bytes written to `TX` beside the events that record them, all justified. -/
theorem inv_record {s : State} (h : s.Inv) (out : List Byte) (events : List Event)
    (hj : ∀ e ∈ events, e.justified s.cfg = true) (ho : events.filterMap Event.txByte? = out) :
    State.Inv { s with tx := s.tx ++ out, trace := s.trace ++ events } where
  heldDomain := h.heldDomain
  rxBounded := h.rxBounded
  traceJustified e he := (List.mem_append.1 he).elim (h.traceJustified e) (hj e)
  txRecorded := by
    change s.tx ++ out = (s.trace ++ events).filterMap Event.txByte?
    rw [List.filterMap_append, ho, ← h.txRecorded]

/-- A justified event that is not a `Tx` may be emitted with nothing written. -/
theorem inv_emit {s : State} (h : s.Inv) (e : Event) (hj : e.justified s.cfg = true) (ho : e.txByte? = none) :
    (s.emit e).Inv := by
  simpa [State.emit] using inv_record h [] [e] (by simpa using hj) (by simp [ho])

/-! The receive queue. -/

theorem rxRoom_iff {c : Config} {cap : Nat} (n : Nat) (h : c.rxqCap = some cap) :
    rxRoom c n = true ↔ n < cap := by
  simp [rxRoom, h]

theorem rxBound_length_le {c : Config} {cap : Nat} (q : List Byte) (h : c.rxqCap = some cap) :
    (rxBound c q).length ≤ cap := by
  simp [rxBound, h]

theorem arrive_inv (s : State) (b : Byte) (h : s.Inv) : (s.arrive b).Inv := by
  unfold State.arrive
  split
  · next hroom =>
    refine inv_queue h (s.rx ++ [b]) s.arrivals s.draws fun cap hc => ?_
    simpa using (rxRoom_iff _ hc).1 hroom
  · exact inv_queue h _ s.arrivals _ fun cap hc => rxBound_length_le _ hc

theorem arriveAll_inv (s : State) (l : List Byte) (h : s.Inv) : (s.arriveAll l).Inv := by
  induction l generalizing s with
  | nil => exact h
  | cons b l ih => exact ih (s.arrive b) (arrive_inv s b h)

theorem land_inv (s : State) (h : s.Inv) : s.land.Inv := by
  have landed (l : List Byte) (rest : List (List Byte)) :
      State.Inv { s.arriveAll l with arrivals := rest } :=
    inv_queue (arriveAll_inv s l h) _ rest _ (arriveAll_inv s l h).rxBounded
  unfold State.land
  split
  · exact landed _ _
  · exact landed _ _
  · exact h

theorem popped_inv {s : State} {b : Byte} {q : List Byte} (h : s.Inv) (hq : s.rx = b :: q) : (s.setRx q).Inv :=
  inv_queue h q s.arrivals s.draws fun cap hc => by
    have hle := h.rxBounded cap hc
    rw [hq, List.length_cons] at hle
    omega

/-! The reader. -/

/-- Each end of CLOSE emits the event whose condition was just tested (R64, R132, R133). -/
theorem closeFrame_inv (b : Frame) (s : State) (h : s.Inv) (hb : b.domain = s.cfg.domain) :
    (closeFrame b s).2.Inv := by
  have hclosed : ((s.setBuf b).setIdx 0).Inv := inv_reader h 0 b fun h0 => absurd rfl h0
  have hdomain : domainOK s.cfg b = true := by simp [domainOK, hb]
  rcases closeFrame_cases b s with ⟨ha, e⟩ | ⟨ha, e⟩ | ⟨ha, hp, e⟩ <;> rw [e]
  · exact inv_emit hclosed _ (by simp [Event.justified, hdomain, ha]) rfl
  · exact inv_emit hclosed _ (by simp [Event.justified, hdomain, ha]) rfl
  · have hstrict : s.cfg.verifyChecksum = true ∧ checksumOK b = false := by simpa [checksumPasses] using hp
    exact inv_emit hclosed _ (by simp [Event.justified, hdomain, ha, hstrict]) rfl

/-- SKIP is justified by the byte it tested, SYNC brings the domain byte, STORE and CLOSE find it held (R131, R33 (b)). -/
theorem takeByte_inv (b : Byte) (s : State) (h : s.Inv) : (takeByte b s).2.Inv := by
  have hheld (hidx : s.idx ≠ 0) : s.buf.domain = s.cfg.domain := h.heldDomain ((phase_collect_iff s).2 hidx)
  rcases takeByte_cases b s with ⟨_, hb, e⟩ | ⟨_, hb, e⟩ | ⟨h0, _, e⟩ | ⟨h5, e⟩ <;> rw [e]
  · exact inv_emit h _ (by simp [Event.justified, hb]) rfl
  · exact inv_emit (inv_reader h 1 (s.buf.set 0 b) fun _ => hb) _ rfl rfl
  · exact inv_reader h _ (s.buf.set s.idx b) fun _ => (frame_set_domain _ _ _ h0).trans (hheld h0)
  · refine closeFrame_inv _ s h ((frame_set_domain _ _ _ (by decide)).trans (hheld ?_))
    rw [h5]
    decide

theorem finishRxb_inv (r : ByteResult) (s : State) (h : s.Inv) : (finishRxb r s).Inv := by
  cases r <;> exact inv_hostSide h _ _ _

theorem finishRdf_inv (r : ByteResult) (s : State) (h : s.Inv) : (finishRdf r s).Inv := by
  cases r <;> exact inv_hostSide h _ _ _

/-- Every received frame class starts with the domain byte (R64). -/
theorem frame?_domain (c : Config) (i : Instr) (b : Frame) (h : i.frame? c = some b) : b.domain = c.domain := by
  cases i <;> cases h <;> rfl

theorem receiveFrame_inv (b : Frame) (s : State) (h : s.Inv) (hb : b.domain = s.cfg.domain) :
    (receiveFrame b s).Inv := by
  rw [receiveFrame_eq]
  split
  · exact finishRdf_inv _ _ (closeFrame_inv b s h hb)
  · exact finishRxb_inv _ _ (closeFrame_inv b s h hb)

/-- The `Tx` events of `TXF` record the bytes it writes (R43, R100). -/
theorem filterMap_txByte_map_tx (q : List Byte) : (q.map Event.tx).filterMap Event.txByte? = q := by
  rw [List.filterMap_map]
  exact List.filterMap_some

theorem exec_inv (i : Instr) (s t : State) (h : s.Inv) (he : exec i s = .next t) : t.Inv := by
  cases exec_effect i s t he with
  | answered a => exact inv_hostSide h _ _ _
  | wrote f =>
    refine inv_hostSide (inv_record h f.bytes (f.bytes.map Event.tx) (fun e hmem => ?_) ?_) _ _ _
    · obtain ⟨_, _, rfl⟩ := List.mem_map.1 hmem
      rfl
    · exact filterMap_txByte_map_tx _
  | restarted => exact inv_hostSide (inv_reader h 0 s.buf fun h0 => absurd rfl h0) _ _ _
  | rxbEmpty => exact finishRxb_inv _ s h
  | rdfEmpty => exact finishRdf_inv _ s h
  | rxbTook b q _ hq => exact finishRxb_inv _ _ (takeByte_inv b _ (popped_inv h hq))
  | rdfTook b q _ hq => exact finishRdf_inv _ _ (takeByte_inv b _ (popped_inv h hq))
  | received b hi => exact receiveFrame_inv b s h (frame?_domain _ i b hi)

/-- Settles O38: the values that `State.reset` names; at `idx` 0 no byte is held. -/
theorem resetIsHuntWithEmptyHistories : Obligations.ResetIsHuntWithEmptyHistories :=
  ⟨rfl, rfl, rfl, rfl⟩

/-- Settles O39: no frame is in progress, and the queue, the trace and the `TX` history are empty. -/
theorem invariantAtReset : Obligations.InvariantAtReset where
  heldDomain h := absurd rfl ((phase_collect_iff _).1 h)
  rxBounded _ _ := Nat.zero_le _
  traceJustified _ h := absurd h List.not_mem_nil
  txRecorded := rfl

/-- Settles O40: the arrivals, the host port and every instruction keep the invariant, so the step does. -/
theorem everyStepKeepsInvariant : Obligations.EveryStepKeepsInvariant := by
  intro s t hs h
  exact step_keeps land_inv (fun _ _ hu => inv_hostSide hu _ _ _) (fun _ _ _ hu => inv_hostSide hu _ _ _)
    exec_inv hs h

end Sys2Proof.StateRules
end

section
/-! The buffer registers that hold no byte of the frame in progress (spec/10_state.md R30, R33 (d)): states that differ
there are one state with two buffers, and each operation takes such a pair to such a pair. -/

namespace Sys2Proof.StateRules
open Sys2Proof Sys2Proof.Machine

theorem sameVisible_iff (s t : State) : s.SameVisible t ↔ ∃ g, t = s.setBuf g ∧ s.held = (s.setBuf g).held := by
  constructor
  · rintro ⟨ht, hh⟩
    exact ⟨t.buf, ht.symm, hh.trans (congrArg State.held ht.symm)⟩
  · rintro ⟨g, rfl, hh⟩
    exact ⟨rfl, hh⟩

/-- Two such states agree on what a projection that does not read the buffer gives. -/
theorem sameVisible_proj {α : Type} {s t : State} (h : s.SameVisible t) (p : State → α)
    (hp : ∀ u g, p (u.setBuf g) = p u) : p t = p s := by
  obtain ⟨g, rfl, _⟩ := (sameVisible_iff s t).1 h
  exact hp s g

theorem sameVisible_refl (s : State) : s.SameVisible s := ⟨rfl, rfl⟩

/-- An update that neither reads nor writes the buffer and leaves the bytes held keeps two such states alike. -/
theorem sameVisible_map {f : State → State} (hbuf : ∀ u g, f (u.setBuf g) = (f u).setBuf g)
    (hheld : ∀ u, (f u).held = u.held) {s t : State} (h : s.SameVisible t) : (f s).SameVisible (f t) := by
  obtain ⟨g, rfl, hh⟩ := (sameVisible_iff s t).1 h
  exact (sameVisible_iff _ _).2 ⟨g, hbuf s g, by rw [← hbuf, hheld, hheld, hh]⟩

theorem sameVisible_answer {s t : State} (h : s.SameVisible t) (st : Status) (d : List Byte) :
    (s.answer st d).SameVisible (t.answer st d) :=
  sameVisible_map (f := fun u => u.answer st d) (fun _ _ => rfl) (fun _ => rfl) h

theorem sameVisible_emit {s t : State} (h : s.SameVisible t) (e : Event) : (s.emit e).SameVisible (t.emit e) :=
  sameVisible_map (f := fun u => u.emit e) (fun _ _ => rfl) (fun _ => rfl) h

theorem sameVisible_setRx {s t : State} (h : s.SameVisible t) (q : List Byte) : (s.setRx q).SameVisible (t.setRx q) :=
  sameVisible_map (f := fun u => u.setRx q) (fun _ _ => rfl) (fun _ => rfl) h

theorem sameVisible_setPort {s t : State} (h : s.SameVisible t) (q : List Byte) :
    (s.setPort q).SameVisible (t.setPort q) :=
  sameVisible_map (f := fun u => u.setPort q) (fun _ _ => rfl) (fun _ => rfl) h

theorem sameVisible_finishRxb {s t : State} (h : s.SameVisible t) (r : ByteResult) :
    (finishRxb r s).SameVisible (finishRxb r t) :=
  sameVisible_map (fun _ _ => by cases r <;> rfl) (finishRxb_held r) h

theorem sameVisible_finishRdf {s t : State} (h : s.SameVisible t) (r : ByteResult) :
    (finishRdf r s).SameVisible (finishRdf r t) :=
  sameVisible_map (fun _ _ => by cases r <;> rfl) (finishRdf_held r) h

theorem sameVisible_memWrites {s t : State} (h : s.SameVisible t) (q : List Byte) :
    (q.foldl State.memWrite s).SameVisible (q.foldl State.memWrite t) := by
  simp only [memWrite_all]
  exact sameVisible_map (f := fun u => { u with tx := u.tx ++ q, trace := u.trace ++ q.map Event.tx })
    (fun _ _ => rfl) (fun _ => rfl) h

/-- In HUNT no byte is held. -/
theorem sameVisible_setIdx_zero {s t : State} (h : s.SameVisible t) : (s.setIdx 0).SameVisible (t.setIdx 0) := by
  obtain ⟨g, rfl, _⟩ := (sameVisible_iff s t).1 h
  exact ⟨rfl, rfl⟩

/-- A byte stored at `buf[idx]` is added to the same bytes held. -/
theorem sameVisible_store {s t : State} (h : s.SameVisible t) (b : Byte) (h5 : s.idx ≠ 5) :
    ((s.writeBuf s.idx b).setIdx (s.idx + 1)).SameVisible ((t.writeBuf t.idx b).setIdx (t.idx + 1)) := by
  obtain ⟨g, rfl, hh⟩ := (sameVisible_iff s t).1 h
  exact ⟨rfl, by rw [held_store s b h5, held_store (s.setBuf g) b h5, hh]⟩

/-! The arrivals. -/

theorem arrive_setBuf (s : State) (g : Frame) (b : Byte) : (s.setBuf g).arrive b = (s.arrive b).setBuf g := by
  cases hroom : rxRoom s.cfg s.rx.length <;> simp [State.arrive, hroom] <;> rfl

theorem arriveAll_setBuf (s : State) (g : Frame) (l : List Byte) :
    (s.setBuf g).arriveAll l = (s.arriveAll l).setBuf g :=
  List.foldl_hom (State.setBuf · g) fun u b => arrive_setBuf u g b

theorem land_setBuf (s : State) (g : Frame) : (s.setBuf g).land = s.land.setBuf g := by
  simp only [State.land, setBuf_arrivals, setBuf_arrivalLoop, arriveAll_setBuf]
  split <;> rfl

theorem sameVisible_land {s t : State} (h : s.SameVisible t) : s.land.SameVisible t.land :=
  sameVisible_map land_setBuf land_held h

/-! The reader. -/

/-- CLOSE overwrites the whole buffer, so it does not matter what the buffer held. -/
theorem closeFrame_setBuf (b : Frame) (s : State) (g : Frame) : closeFrame b (s.setBuf g) = closeFrame b s := rfl

theorem receiveFrame_setBuf (b : Frame) (s : State) (g : Frame) : receiveFrame b (s.setBuf g) = receiveFrame b s :=
  rfl

/-- With five bytes held, the sixth completes the same frame. -/
theorem completed_eq {s : State} {g : Frame} (b : Byte) (h5 : s.idx = 5) (h : s.held = (s.setBuf g).held) :
    s.buf.set 5 b = g.set 5 b := by
  have htake : s.buf.bytes.take 5 = g.bytes.take 5 := by simpa [State.held, h5] using h
  apply frame_bytes_injective
  calc (s.buf.set 5 b).bytes
      = s.buf.bytes.take 5 ++ [b] := frame_take_set_succ s.buf 5 b
    _ = g.bytes.take 5 ++ [b] := by rw [htake]
    _ = (g.set 5 b).bytes := (frame_take_set_succ g 5 b).symm

/-- The four cases of a byte step on two such states: the same result, and two such states again. -/
theorem takeByte_sameVisible (b : Byte) {s t : State} (h : s.SameVisible t) :
    (takeByte b s).1 = (takeByte b t).1 ∧ (takeByte b s).2.SameVisible (takeByte b t).2 := by
  obtain ⟨g, rfl, hh⟩ := (sameVisible_iff s t).1 h
  rcases takeByte_cases b s with ⟨h0, hb, e⟩ | ⟨h0, hb, _⟩ | ⟨h0, h5, e⟩ | ⟨h5, e⟩
  · rw [e, takeByte_skip b (s.setBuf g) h0 hb]
    exact ⟨rfl, sameVisible_emit h _⟩
  · rw [takeByte_sync b s h0 hb, takeByte_sync b (s.setBuf g) h0 hb]
    exact ⟨rfl, sameVisible_emit (sameVisible_store h b (by simp [h0])) _⟩
  · rw [e, takeByte_store b (s.setBuf g) h0 h5]
    exact ⟨rfl, sameVisible_store h b h5⟩
  · rw [e, takeByte_close b (s.setBuf g) h5, closeFrame_setBuf, setBuf_buf, completed_eq b h5 hh]
    exact ⟨rfl, sameVisible_refl _⟩

/-- Two outcomes that are next states which differ at most in the buffer registers beyond the bytes held. -/
def SameNext (o o' : Host.Outcome State Fault Refusal) : Prop :=
  ∃ s' t', o = .next s' ∧ o' = .next t' ∧ s'.SameVisible t'

/-- `RXB` and `RDF` alike: a byte step and then what the operation makes of its result, `finish`. -/
theorem reader_sameNext (finish : ByteResult → State → State) (i : Instr)
    (hnil : ∀ u, u.rx = [] → exec i u = .next (finish .noFrame u))
    (hcons : ∀ u b q, u.rx = b :: q →
      exec i u = .next (finish (takeByte b (u.setRx q)).1 (takeByte b (u.setRx q)).2))
    (hfinish : ∀ {u v : State}, u.SameVisible v → ∀ r, (finish r u).SameVisible (finish r v))
    {s t : State} (h : s.SameVisible t) : SameNext (exec i s) (exec i t) := by
  have hrx : t.rx = s.rx := sameVisible_proj h State.rx setBuf_rx
  cases hs : s.rx with
  | nil => exact ⟨_, _, hnil s hs, hnil t (hrx.trans hs), hfinish h _⟩
  | cons b q =>
    obtain ⟨hr, hv⟩ := takeByte_sameVisible b (sameVisible_setRx h q)
    refine ⟨_, _, hcons s b q hs, hcons t b q (hrx.trans hs), ?_⟩
    rw [← hr]
    exact hfinish hv _

theorem exec_sameNext (i : Instr) {s t : State} (h : s.SameVisible t) : SameNext (exec i s) (exec i t) := by
  have hcfg : t.cfg = s.cfg := sameVisible_proj h State.cfg setBuf_cfg
  cases hi : i.frame? s.cfg with
  | some b =>
    obtain ⟨g, rfl, _⟩ := (sameVisible_iff s t).1 h
    refine ⟨_, _, (exec_frame i s b hi).1, (exec_frame i (s.setBuf g) b hi).1, ?_⟩
    rw [receiveFrame_setBuf]
    exact sameVisible_refl _
  | none =>
    cases hc : codecAnswer? s.cfg i with
    | some a => exact ⟨_, _, exec_codec i s a hc, exec_codec i t a (hcfg ▸ hc), sameVisible_answer h _ _⟩
    | none =>
      cases i <;> simp [Instr.frame?, codecAnswer?] at hi hc
      case txf f => exact ⟨_, _, rfl, rfl, sameVisible_answer (sameVisible_memWrites h _) _ _⟩
      case rst => exact ⟨_, _, rfl, rfl, sameVisible_answer (sameVisible_setIdx_zero h) _ _⟩
      case rxb => exact reader_sameNext finishRxb .rxb execRxb_nil execRxb_cons sameVisible_finishRxb h
      case rdf => exact reader_sameNext finishRdf .rdf execRdf_nil execRdf_cons sameVisible_finishRdf h

/-- Settles O41: the arrivals and the fetch do not read the buffer, and every instruction takes two such states to two
such states. -/
theorem staleBufferNeverObserved : Obligations.StaleBufferNeverObserved := by
  intro s t h
  have hrdf : t.rdfActive = s.rdfActive := sameVisible_proj h State.rdfActive setBuf_rdfActive
  have hport : t.port = s.port := sameVisible_proj h State.port setBuf_port
  have hland := sameVisible_land h
  change SameNext (step s) (step t)
  rcases step_cases s with ⟨hr, e⟩ | ⟨hr, hf, e⟩ | ⟨hr, rest, hf, e⟩ | ⟨hr, i, rest, hf, e⟩ <;>
    rw [← hrdf] at hr
  · rw [e, step_rdf t hr]
    exact exec_sameNext _ hland
  · rw [← hport] at hf
    exact ⟨_, _, e, step_idle t hr hf, hland⟩
  · rw [← hport] at hf
    exact ⟨_, _, e, step_unassigned t rest hr hf, sameVisible_answer (sameVisible_setPort hland _) _ _⟩
  · rw [← hport] at hf
    rw [e, step_run t i rest hr hf]
    exact exec_sameNext i (sameVisible_setPort hland _)

end Sys2Proof.StateRules
end

section
/-! The receive queue (spec/20_memory.md R40, R42; spec/93_implementation_defined.md U8): a read of `RX`, and what an
arrival does with room and without. -/

namespace Sys2Proof.MemoryRules
open Sys2Proof Sys2Proof.Machine Sys2Proof.StateRules

/-- Settles O10: the two cases of `MemRead`. -/
theorem memReadPopsHead : Obligations.MemReadPopsHead :=
  fun s => ⟨memRead_cons s, memRead_nil s⟩

theorem arrive_of_room (s : State) (b : Byte) (h : rxRoom s.cfg s.rx.length = true) :
    s.arrive b = s.setRx (s.rx ++ [b]) := by
  simp [State.arrive, h]

theorem arrive_of_full (s : State) (b : Byte) (h : rxRoom s.cfg s.rx.length = false) :
    s.arrive b = { s with rx := rxBound s.cfg (Config.rxAfterOverflow s.draws), draws := s.draws + 1 } := by
  simp [State.arrive, h]

/-- Settles O35: the free content is cut to the bound before it becomes `RX`. -/
theorem overflowTouchesOnlyTheQueue : Obligations.OverflowTouchesOnlyTheQueue := by
  intro s b cap hcap hlen
  have hfull : rxRoom s.cfg s.rx.length = false := by
    rw [Bool.eq_false_iff, Ne, rxRoom_iff _ hcap]
    omega
  exact ⟨_, rxBound_length_le _ hcap, arrive_of_full s b hfull⟩

/-- There is room for each byte of a list that fits as a whole, so each is appended (R40). -/
theorem arriveAll_of_room (s : State) (l : List Byte)
    (h : ∀ cap, s.cfg.rxqCap = some cap → s.rx.length + l.length ≤ cap) :
    s.arriveAll l = s.setRx (s.rx ++ l) := by
  induction l generalizing s with
  | nil => simp [State.arriveAll, State.setRx]
  | cons b l ih =>
    have hroom : rxRoom s.cfg s.rx.length = true := by
      cases hc : s.cfg.rxqCap with
      | none => simp [rxRoom, hc]
      | some cap =>
        have hle := h cap hc
        rw [List.length_cons] at hle
        exact (rxRoom_iff _ hc).2 (by omega)
    have hrest : (s.setRx (s.rx ++ [b])).arriveAll l = s.setRx (s.rx ++ [b] ++ l) :=
      ih (s.setRx (s.rx ++ [b])) fun cap hc => by
        have hle := h cap hc
        simp only [setRx_rx, List.length_append, List.length_cons, List.length_nil] at hle ⊢
        omega
    calc s.arriveAll (b :: l)
        = (s.arrive b).arriveAll l := rfl
      _ = s.setRx (s.rx ++ b :: l) := by rw [arrive_of_room s b hroom, hrest, List.append_assoc, List.singleton_append]

/-- The bytes of the coming moment are those of the schedule, and once it is used up those of the loop's start. -/
theorem land_eq (s : State) (q : List Byte) (rest : List (List Byte))
    (h : s.arrivals = q :: rest ∨ s.arrivals = [] ∧ s.arrivalLoop = q :: rest) :
    s.land = { s.arriveAll q with arrivals := rest } := by
  rcases h with ha | ⟨ha, hl⟩
  · simp [State.land, ha]
  · simp [State.land, ha, hl]

/-- Settles O34: the bytes that land all find room. -/
theorem arrivalsAppendInOrder : Obligations.ArrivalsAppendInOrder := by
  intro s q rest h hroom
  rw [land_eq s q rest h, arriveAll_of_room s q hroom]
  rfl

end Sys2Proof.MemoryRules
end

section
/-! The append-only histories (spec/20_memory.md R43, R52): what the reader, the answers and then every instruction add
to `TX`, to the trace and to the answers. -/

namespace Sys2Proof.MemoryRules
open Sys2Proof Sys2Proof.Machine Sys2Proof.StateRules

/-- From `s` to `t` events were added to the trace, to `TX` the bytes of their `Tx` events, and to the answers one at
most. -/
def HistoriesGrow (s t : State) : Prop :=
  ∃ (events : List Event) (given : List Answer),
    t.tx = s.tx ++ events.filterMap Event.txByte? ∧ t.trace = s.trace ++ events ∧
    t.answers = s.answers ++ given ∧ given.length ≤ 1

/-- From `s` to `t` nothing was written or answered: the events added to the trace are the reader's own. -/
def OnlyListened (s t : State) : Prop :=
  ∃ events : List Event, events.filterMap Event.txByte? = [] ∧
    t.tx = s.tx ∧ t.trace = s.trace ++ events ∧ t.answers = s.answers

theorem onlyListened_refl (s : State) : OnlyListened s s := ⟨[], rfl, rfl, (List.append_nil _).symm, rfl⟩

/-- One event that is no `Tx`, and any change of the reader's registers. -/
theorem onlyListened_emit (s : State) (k : Fin 6) (f : Frame) (e : Event) (he : e.txByte? = none) :
    OnlyListened s (((s.setBuf f).setIdx k).emit e) :=
  ⟨[e], by simp [he], rfl, rfl, rfl⟩

theorem closeFrame_onlyListened (b : Frame) (s : State) : OnlyListened s (closeFrame b s).2 := by
  rcases closeFrame_cases b s with ⟨_, h⟩ | ⟨_, h⟩ | ⟨_, _, h⟩ <;> rw [h] <;> exact onlyListened_emit s _ _ _ rfl

theorem takeByte_onlyListened (b : Byte) (s : State) : OnlyListened s (takeByte b s).2 := by
  rcases takeByte_cases b s with ⟨_, _, h⟩ | ⟨_, _, h⟩ | ⟨_, _, h⟩ | ⟨_, h⟩ <;> rw [h]
  · exact onlyListened_emit s s.idx s.buf _ rfl
  · exact onlyListened_emit s _ _ _ rfl
  · exact onlyListened_refl s
  · exact closeFrame_onlyListened _ s

/-- `RXB` answers exactly once (R102). -/
theorem finishRxb_grows {s t : State} (h : OnlyListened s t) (r : ByteResult) : HistoriesGrow s (finishRxb r t) := by
  obtain ⟨events, hsilent, htx, htrace, hanswers⟩ := h
  have ⟨a, ha⟩ : ∃ a, (finishRxb r t).answers = t.answers ++ [a] := by cases r <;> exact ⟨_, rfl⟩
  exact ⟨events, [a], by simp [hsilent, htx], by simp [htrace], by rw [ha, hanswers], le_rfl⟩

/-- A turn of `RDF` answers when it ends the `RDF`, and not when it goes round again (R107). -/
theorem finishRdf_grows {s t : State} (h : OnlyListened s t) (r : ByteResult) : HistoriesGrow s (finishRdf r t) := by
  obtain ⟨events, hsilent, htx, htrace, hanswers⟩ := h
  have ⟨given, hgiven, hone⟩ : ∃ given, (finishRdf r t).answers = t.answers ++ given ∧ given.length ≤ 1 := by
    cases r with
    | noFrame | frame => exact ⟨[_], rfl, le_rfl⟩
    | consumed => exact ⟨[], (List.append_nil _).symm, Nat.zero_le 1⟩
  exact ⟨events, given, by simp [hsilent, htx], by simp [htrace], by rw [hgiven, hanswers], hone⟩

theorem receiveFrame_grows (b : Frame) (s : State) : HistoriesGrow s (receiveFrame b s) := by
  rw [receiveFrame_eq]
  split
  · exact finishRdf_grows (closeFrame_onlyListened b s) _
  · exact finishRxb_grows (closeFrame_onlyListened b s) _

theorem answer_grows (s : State) (st : Status) (d : List Byte) : HistoriesGrow s (s.answer st d) :=
  ⟨[], [⟨st, d⟩], by simp, by simp, rfl, le_rfl⟩

theorem exec_grows (i : Instr) (s t : State) (h : exec i s = .next t) : HistoriesGrow s t := by
  cases exec_effect i s t h with
  | answered a => exact answer_grows s a.status a.data
  | wrote f => exact ⟨f.bytes.map Event.tx, [_], by rw [filterMap_txByte_map_tx], rfl, rfl, le_rfl⟩
  | restarted => exact answer_grows (s.setIdx 0) .ok []
  | rxbEmpty => exact finishRxb_grows (onlyListened_refl s) _
  | rdfEmpty => exact finishRdf_grows (onlyListened_refl s) _
  | rxbTook b q => exact finishRxb_grows (takeByte_onlyListened b (s.setRx q)) _
  | rdfTook b q => exact finishRdf_grows (takeByte_onlyListened b (s.setRx q)) _
  | received b => exact receiveFrame_grows b s

/-- The arrivals add to no history. -/
theorem historiesGrow_land {s t : State} (h : HistoriesGrow s.land t) : HistoriesGrow s t := by
  simpa [HistoriesGrow] using h

/-- What the arrivals and the taking of command bytes leave alone, one instruction or one answer adds to. -/
theorem step_grows (s t : State) (h : step s = .next t) : HistoriesGrow s t := by
  apply historiesGrow_land
  rcases step_cases s with ⟨_, e⟩ | ⟨_, _, e⟩ | ⟨_, rest, _, e⟩ | ⟨_, i, rest, _, e⟩ <;> rw [e] at h
  · exact exec_grows _ _ _ h
  · cases h
    exact ⟨[], [], by simp, by simp, by simp, Nat.zero_le 1⟩
  · cases h
    exact answer_grows (s.land.setPort rest) .badOp []
  · exact exec_grows i (s.land.setPort rest) t h

/-- Settles O42: the bytes added to `TX` are those of the events added. -/
theorem historiesOnlyGrow : Obligations.HistoriesOnlyGrow := by
  intro s t h
  obtain ⟨events, given, htx, htrace, hanswers, hone⟩ := step_grows s t h
  exact ⟨_, events, given, htx, htrace, hanswers, rfl, hone⟩

end Sys2Proof.MemoryRules
end

section
/-! The operation table and the commands (spec/30_encoding.md R66 to R69): which code a row matches, and the decoder and
the encoder as inverses of each other. -/

namespace Sys2Proof.EncodingRules
open Sys2Proof Sys2Proof.Machine

/-! The operation table. -/

/-- A row's mask keeps the whole code byte, so a row matches its own code alone (R67). -/
theorem hits_iff {r : OpRow} (hr : r ∈ opTable) (code : Byte) : r.hits code = true ↔ code = r.code := by
  have hmask : ∀ r ∈ opTable, r.mask = BitVec.allOnes 8 := by decide
  rw [OpRow.hits, hmask r hr, BitVec.and_allOnes, beq_iff_eq]

/-- The codes outside the table's column are the ones no row is found for (R68). -/
theorem opRow?_eq_none {code : Byte} (h : code ∉ opTable.map OpRow.code) : opRow? code = none := by
  refine List.find?_eq_none.mpr fun r hr hhit => h ?_
  rw [(hits_iff hr code).mp hhit]
  exact List.mem_map_of_mem hr

/-- Each operation has a row, found at the code that the encoder writes (R67). -/
theorem opRow?_opCode (op : Op) : ∃ r, opRow? op.code = some r ∧ r.op = op := by
  cases op <;> exact ⟨_, rfl, rfl⟩

/-- Settles O55: no two rows have one code, and a row matches its own code alone. -/
theorem operationCodesUnambiguous : Obligations.OperationCodesUnambiguous := by
  have hcodes : opTable.Pairwise (fun r r' => r.code ≠ r'.code) := by decide
  refine ⟨hcodes.imp_of_mem fun hr hr' hne code ⟨hhit, hhit'⟩ => hne ?_, fun _ hr code => hits_iff hr code,
    by decide⟩
  exact ((hits_iff hr code).mp hhit).symm.trans ((hits_iff hr' code).mp hhit')

/-! Commands. -/

theorem encode_command (c : Config) {i : Instr} {op : Op} {operands : List Byte}
    (h : i.command? = some (op, operands)) : encode c i = op.code :: operands := by
  simp [encode, h]

/-- What is no received frame class is an operation (R5, R64). -/
theorem command?_of_frame?_none {c : Config} {i : Instr} (h : i.frame? c = none) :
    ∃ op operands, i.command? = some (op, operands) := by
  cases i <;> cases h <;> exact ⟨_, _, rfl⟩

/-- The operand bytes are read off the front exactly as the encoder writes them, and the bytes after them are left. -/
theorem readOperands_eq_some_iff (op : Op) (q rest : List Byte) (i : Instr) :
    readOperands op q = some (i, rest) ↔ ∃ operands, i.command? = some (op, operands) ∧ q = operands ++ rest := by
  constructor
  · intro h
    unfold readOperands at h
    split at h <;> cases h <;> exact ⟨_, rfl, rfl⟩
  · rintro ⟨operands, h, rfl⟩
    cases i <;> cases h <;> rfl

theorem decodeCommand_cons {code : Byte} {r : OpRow} {q : List Byte} {x : Instr × List Byte}
    (hr : opRow? code = some r) (hx : readOperands r.op q = some x) : decodeCommand (code :: q) = .ok x := by
  simp [decodeCommand, hr, hx]

/-- Settles O51: the code written finds the operation's row, whose operands are read back as they were written. -/
theorem decodeInvertsEncodeOnCommands : Obligations.DecodeInvertsEncodeOnCommands := by
  intro c i rest hi
  obtain ⟨op, operands, hop⟩ := command?_of_frame?_none hi
  obtain ⟨r, hr, rfl⟩ := opRow?_opCode op
  rw [encode_command c hop]
  exact decodeCommand_cons hr ((readOperands_eq_some_iff _ _ _ _).mpr ⟨operands, hop, rfl⟩)

/-- Settles O52: the row found has the code that was read, and the operand bytes read are the encoder's. -/
theorem encodeInvertsDecodeOnCommands : Obligations.EncodeInvertsDecodeOnCommands := by
  intro c q rest i h
  obtain ⟨code, r, q', rfl, hr, hread⟩ := decodeCommand_ok q rest i h
  obtain ⟨operands, hop, rfl⟩ := (readOperands_eq_some_iff _ _ _ _).mp hread
  rw [encode_command c hop, opRow_code code r hr, List.cons_append]

end Sys2Proof.EncodingRules
end

section
/-! The received frame classes as a format (spec/30_encoding.md R61, R64): which six bytes have a class, and the decoder
and the encoder as inverses of each other where the parameters tell the classes apart. -/

namespace Sys2Proof.EncodingRules
open Sys2Proof Sys2Proof.Machine Sys2Proof.StateRules

theorem encode_frame {c : Config} {i : Instr} {b : Frame} (h : i.frame? c = some b) : encode c i = b.bytes := by
  cases i <;> cases h <;> rfl

/-- Every received frame class carries recognized addresses (R64). -/
theorem frame?_addrOK {c : Config} {i : Instr} {b : Frame} (h : i.frame? c = some b) : addrOK c b = true :=
  (exec_frame i { State.reset with cfg := c } b h).2

/-! The table of classes. -/

/-- A row's instruction stands for the frame with the row's addresses. -/
theorem classRow_make_frame? {c : Config} {r : ClassRow} (hr : r ∈ classTable c) (i v k : Byte) :
    (r.make i v k).frame? c = some (receivedFrame c r.sender r.receiver i v k) := by
  simp only [classTable, List.mem_cons, List.not_mem_nil, or_false] at hr
  rcases hr with rfl | rfl | rfl | rfl | rfl | rfl | rfl | rfl <;> rfl

/-- A frame class is a row's instruction, with the three bytes that the row leaves free. -/
theorem frame?_eq_some {c : Config} {i : Instr} {b : Frame} (h : i.frame? c = some b) :
    ∃ r ∈ classTable c, b.sender = r.sender ∧ b.receiver = r.receiver ∧
      i = r.make b.variableId b.value b.checksum := by
  cases i <;> cases h <;> simp [classTable, receivedFrame]

/-- Recognized addresses are those of a row: the rows are the two senders with each of the four receivers (R64, R85). -/
theorem classTable_of_addrOK {c : Config} {b : Frame} (h : addrOK c b = true) :
    ∃ r ∈ classTable c, b.sender = r.sender ∧ b.receiver = r.receiver := by
  rw [addrOK_iff, senderOK_iff, receiverOK_iff] at h
  obtain ⟨hs | hs, hr | hr | hr | hr⟩ := h <;> simp [classTable, hs, hr]

/-- With distinct parameters the addresses of a row are its own. -/
theorem classRow_eq_of_addresses {c : Config} (hc : addressesDistinct c) {r r' : ClassRow} (hr : r ∈ classTable c)
    (hr' : r' ∈ classTable c) (hs : r.sender = r'.sender) (hv : r.receiver = r'.receiver) : r = r' := by
  have hnodup : ((classTable c).map fun r => (r.sender, r.receiver)).Nodup := by
    obtain ⟨h1, h2, h3, h4, h5, h6⟩ := hc
    simp [classTable, h1, h1.symm, h2.symm, h3, h4.symm, h5, h6]
  exact List.inj_on_of_nodup_map hnodup hr hr' (Prod.ext hs hv)

/-- With distinct parameters two classes never share their six bytes. -/
theorem frame?_injective {c : Config} (hc : addressesDistinct c) {i j : Instr} {b : Frame}
    (hi : i.frame? c = some b) (hj : j.frame? c = some b) : i = j := by
  obtain ⟨r, hr, hs, hv, rfl⟩ := frame?_eq_some hi
  obtain ⟨r', hr', hs', hv', rfl⟩ := frame?_eq_some hj
  rw [classRow_eq_of_addresses hc hr hr' (hs.symm.trans hs') (hv.symm.trans hv')]

/-! The decoder of frames. -/

/-- Six bytes classified are the frame of the class found. -/
theorem classify_frame? {c : Config} {b : Frame} {i : Instr} (h : classify c b = .ok i) : i.frame? c = some b := by
  unfold classify frameClass? at h
  split at h
  · next hdomain =>
    cases hfind : (classTable c).find? (fun r => b.sender == r.sender && b.receiver == r.receiver) with
    | none => simp [hfind] at h
    | some r =>
      have ⟨hs, hv⟩ : b.sender = r.sender ∧ b.receiver = r.receiver := by simpa using List.find?_some hfind
      simp only [hfind, Option.map_some, Except.ok.injEq] at h
      rw [← h, classRow_make_frame? (List.mem_of_find?_eq_some hfind), ← hs, ← hv, receivedFrame, ← hdomain]
  · cases h

theorem classify_of_addrOK {c : Config} {b : Frame} (hdomain : b.domain = c.domain) (haddr : addrOK c b = true) :
    ∃ i, classify c b = .ok i := by
  obtain ⟨r, hr, hs, hv⟩ := classTable_of_addrOK haddr
  have hfound : ((classTable c).find? (fun r => b.sender == r.sender && b.receiver == r.receiver)).isSome :=
    List.find?_isSome.mpr ⟨r, hr, by simp [hs, hv]⟩
  obtain ⟨r', hr'⟩ := Option.isSome_iff_exists.mp hfound
  exact ⟨r'.make b.variableId b.value b.checksum, by simp [classify, frameClass?, hdomain, hr']⟩

/-- Six bytes have a class exactly when they start with the domain byte and carry recognized addresses (R64, R65). -/
theorem exists_frame?_iff (c : Config) (b : Frame) :
    (∃ i : Instr, i.frame? c = some b) ↔ b.domain = c.domain ∧ addrOK c b = true := by
  constructor
  · rintro ⟨i, hi⟩
    exact ⟨frame?_domain c i b hi, frame?_addrOK hi⟩
  · rintro ⟨hdomain, haddr⟩
    obtain ⟨i, hi⟩ := classify_of_addrOK hdomain haddr
    exact ⟨i, classify_frame? hi⟩

/-- With distinct parameters the class of six bytes is the one whose bytes they are. -/
theorem classify_of_frame? {c : Config} (hc : addressesDistinct c) {i : Instr} {b : Frame}
    (h : i.frame? c = some b) : classify c b = .ok i := by
  obtain ⟨j, hj⟩ := classify_of_addrOK (frame?_domain c i b h) (frame?_addrOK h)
  rw [hj, frame?_injective hc (classify_frame? hj) h]

/-- The first six bytes of a stream are classified, and the bytes after them are left. -/
theorem decodeFrame_ok_iff (c : Config) (q rest : List Byte) (i : Instr) :
    decodeFrame c q = .ok (i, rest) ↔ ∃ b : Frame, q = b.bytes ++ rest ∧ classify c b = .ok i := by
  constructor
  · intro h
    unfold decodeFrame at h
    split at h
    · cases h
    · split at h
      · next hclass =>
        cases h
        exact ⟨_, rfl, hclass⟩
      · cases h
    · cases h
  · rintro ⟨b, rfl, hclass⟩
    simp [decodeFrame, Frame.bytes, hclass]

/-- Settles O53: with distinct parameters the class found for the six bytes encoded is the class they came from. -/
theorem decodeInvertsEncodeOnFrames : Obligations.DecodeInvertsEncodeOnFrames := by
  intro c i b rest hc hi
  rw [encode_frame hi]
  exact (decodeFrame_ok_iff _ _ _ _).mpr ⟨b, rfl, classify_of_frame? hc hi⟩

/-- Settles O54: whichever row of the class table was found, its frame is the six bytes decoded. -/
theorem encodeInvertsDecodeOnFrames : Obligations.EncodeInvertsDecodeOnFrames := by
  refine ⟨fun c q rest i h => ?_, fun c b hdomain haddr => ?_⟩
  · obtain ⟨b, rfl, hclass⟩ := (decodeFrame_ok_iff _ _ _ _).mp h
    rw [encode_frame (classify_frame? hclass)]
  · obtain ⟨i, hclass⟩ := classify_of_addrOK hdomain haddr
    exact ⟨i, (decodeFrame_ok_iff _ _ _ _).mpr ⟨b, (List.append_nil _).symm, hclass⟩, classify_frame? hclass⟩

/-- A class is well formed exactly when its frame's checksum passes (R64). -/
theorem wellFormed_eq {c : Config} {i : Instr} {b : Frame} (h : i.frame? c = some b) :
    i.wellFormed c = checksumPasses c b := by
  simp [Instr.wellFormed, h]

/-- Settles O24: the domain and the addresses say that there is a class, the fourth condition that it is well formed; and
the meaning of a class is its frame, received. -/
theorem acceptedFramesAreTheEightClasses : Obligations.AcceptedFramesAreTheEightClasses := by
  refine ⟨fun c b => ?_, fun s i j b hi hj => (exec_frame i s b hi).1.trans (exec_frame j s b hj).1.symm⟩
  rw [← senderOK_iff, ← receiverOK_iff]
  constructor
  · rintro ⟨hdomain, hs, hr, hsum⟩
    obtain ⟨i, hi⟩ := (exists_frame?_iff c b).mpr ⟨hdomain, (addrOK_iff c b).mpr ⟨hs, hr⟩⟩
    refine ⟨i, hi, (wellFormed_eq hi).trans ?_⟩
    exact (checksumPasses_iff c b).mpr fun hv => (checksumOK_iff b).mpr (hsum hv)
  · rintro ⟨i, hi, hwf⟩
    obtain ⟨hdomain, haddr⟩ := (exists_frame?_iff c b).mp ⟨i, hi⟩
    obtain ⟨hs, hr⟩ := (addrOK_iff c b).mp haddr
    rw [wellFormed_eq hi, checksumPasses_iff, checksumOK_iff] at hwf
    exact ⟨hdomain, hs, hr, hwf⟩

end Sys2Proof.EncodingRules
end

section
/-! The received frame classes as instructions (spec/30_encoding.md R64, spec/41_transport.md R106): what a class does,
and the byte step that runs it. -/

namespace Sys2Proof.EncodingRules
open Sys2Proof Sys2Proof.Machine Sys2Proof.StateRules

theorem closeFrame_of_accept {b : Frame} {s : State} (h : accept s.cfg b = true) :
    closeFrame b s = (.frame b, ((s.setBuf b).setIdx 0).emit (.accept b)) := by
  obtain ⟨haddr, hsum⟩ := (accept_iff _ _).mp h
  simp [closeFrame, haddr, hsum]

/-- Settles O25: a well-formed class is accepted by case CLOSE, and the frame answered ends the `RDF` or is the answer of
an `RXB`, with no `RDF` in progress. -/
theorem frameClassesAreAccepted : Obligations.FrameClassesAreAccepted := by
  intro s i b hi hwf
  obtain ⟨hexec, haddr⟩ := exec_frame i s b hi
  have hclose := closeFrame_of_accept ((accept_iff s.cfg b).mpr ⟨haddr, (wellFormed_eq hi).symm.trans hwf⟩)
  rw [hexec, receiveFrame_eq, hclose]
  cases hrdf : s.rdfActive
  · simp [finishRxb, State.answer, State.emit, State.setBuf, State.setIdx, hrdf]
  · rfl

/-- Case CLOSE does not look at the `RDF` in progress. -/
theorem closeFrame_setRdf (b : Frame) (s : State) (a : Bool) :
    closeFrame b (s.setRdf a) = ((closeFrame b s).1, (closeFrame b s).2.setRdf a) := by
  rw [closeFrame, closeFrame, setRdf_cfg]
  split_ifs <;> rfl

/-- A turn of `RDF` says afresh whether the `RDF` goes on. -/
theorem finishRdf_setRdf (r : ByteResult) (s : State) (a : Bool) : finishRdf r (s.setRdf a) = finishRdf r s := by
  cases r <;> rfl

theorem receiveFrame_rxb {s : State} (b : Frame) (h : s.rdfActive = false) :
    receiveFrame b s = finishRxb (closeFrame b s).1 (closeFrame b s).2 := by
  simp [receiveFrame_eq, h]

theorem receiveFrame_rdf (b : Frame) (s : State) :
    receiveFrame b (s.setRdf true) = finishRdf (closeFrame b s).1 (closeFrame b s).2 := by
  simp [receiveFrame_eq, closeFrame_setRdf, finishRdf_setRdf]

/-- Settles O27: at `idx` 5 the byte step is case CLOSE on the six bytes, which are the frame of the class found. -/
theorem byteStepRunsFrameClass : Obligations.ByteStepRunsFrameClass := by
  intro s b q i h5 hq hclass
  have hi : i.frame? s.cfg = some (s.buf.set 5 b) := classify_frame? hclass
  have hclose : takeByte b (s.setRx q) = closeFrame (s.buf.set 5 b) (s.setRx q) := takeByte_close b _ h5
  refine ⟨fun hrdf => ?_, ?_⟩
  · calc exec .rxb s = .next (receiveFrame (s.buf.set 5 b) (s.setRx q)) := by
          rw [exec, execRxb_cons s b q hq, hclose, receiveFrame_rxb (s := s.setRx q) _ hrdf]
      _ = exec i (s.setRx q) := (exec_frame i (s.setRx q) _ hi).1.symm
  · calc exec .rdf s = .next (receiveFrame (s.buf.set 5 b) ((s.setRx q).setRdf true)) := by
          rw [exec, execRdf_cons s b q hq, hclose, receiveFrame_rdf]
      _ = exec i ((s.setRx q).setRdf true) := (exec_frame i ((s.setRx q).setRdf true) _ hi).1.symm

end Sys2Proof.EncodingRules
end

section
/-! The step by what the host port holds (spec/30_encoding.md R66 to R68), and words written out from the spec. -/

namespace Sys2Proof.EncodingRules
open Sys2Proof Sys2Proof.Machine

/-- Settles O28: the fetch runs what the port decodes to. -/
theorem stepRunsDecodedCommand : Obligations.StepRunsDecodedCommand :=
  fun s i rest hrdf hport => step_run s i rest hrdf ((fetch_run_iff s.port rest i).mpr hport)

/-- Settles O30: the step is the `RXB`, whose byte step completes the six bytes and so runs their class. -/
theorem stepRunsDecodedFrame : Obligations.StepRunsDecodedFrame := by
  intro s b q rest i hrdf hport h5 hq hclass
  have hclass' : classify s.land.cfg (s.land.buf.set 5 b) = .ok i := by rwa [land_cfg, land_buf]
  rw [stepRunsDecodedCommand s .rxb rest hrdf hport]
  exact (byteStepRunsFrameClass { s.land with port := rest } b q i ((land_idx s).trans h5) hq hclass').1
    ((land_rdfActive s).trans hrdf)

theorem fetch_idle {port : List Byte}
    (h : decodeCommand port = .error .noBytes ∨ decodeCommand port = .error .truncated) : fetch port = .idle := by
  rcases h with h | h <;> simp [fetch, h]

theorem fetch_badOp {port : List Byte} {code : Byte} (h : decodeCommand port = .error (.badOp code)) :
    fetch port = .unassigned port.tail := by
  simp [fetch, h]

/-- Settles O31: with no whole command the fetch is idle. -/
theorem stepWaitsForWholeCommand : Obligations.StepWaitsForWholeCommand :=
  fun s hrdf hport => step_idle s hrdf (fetch_idle hport)

theorem decodeCommand_unassigned {code : Byte} (rest : List Byte) (h : opRow? code = none) :
    decodeCommand (code :: rest) = .error (.badOp code) := by
  simp [decodeCommand, h]

/-- Settles O32: no row is found for the code, and the fetch takes that one byte. -/
theorem unassignedCodeAnswersBadOp : Obligations.UnassignedCodeAnswersBadOp := by
  intro s code rest hrdf hport hcode
  have hdecode : decodeCommand s.port = .error (.badOp code) := by
    rw [hport, decodeCommand_unassigned rest (opRow?_eq_none hcode)]
  have hfetch : fetch s.port = .unassigned rest := by rw [fetch_badOp hdecode, hport, List.tail_cons]
  refine ⟨hdecode, ?_⟩
  rw [step_unassigned s rest hrdf hfetch, State.badOp, State.answer, setPort_answers, land_answers]
  rfl

/-- Settles O57: the decoders evaluated on eight fixed words. -/
theorem wordsFromSpecDecode : Obligations.WordsFromSpecDecode := by
  unfold Obligations.WordsFromSpecDecode
  decide

end Sys2Proof.EncodingRules
end

section
/-! The laws of the checksum sum (spec/40_codec.md R80, R81): it is the sum of five bytes in the ring of bytes, and what
a change of one byte does to it. -/

namespace Sys2Proof.CodecRules
open Sys2Proof Sys2Proof.Machine Sys2Proof.StateRules

theorem csum_eq_ofNat (b0 b1 b2 b3 b4 : Byte) :
    csum b0 b1 b2 b3 b4 = BitVec.ofNat 8 (b0.toNat + b1.toNat + b2.toNat + b3.toNat + b4.toNat) := by
  apply BitVec.eq_of_toNat_eq
  rw [csum_toNat, BitVec.toNat_ofNat]

/-- The zero extension of R80 does not show in the low eight bits (R81 (c)). -/
theorem csum_eq_add (b0 b1 b2 b3 b4 : Byte) : csum b0 b1 b2 b3 b4 = b0 + b1 + b2 + b3 + b4 := by
  rw [csum_eq_ofNat]
  simp only [BitVec.ofNat_add, BitVec.ofNat_toNat, BitVec.setWidth_eq]

/-- The checksum as the sum of a list, which no order of the operands changes (R81 (d)). -/
theorem csum_eq_sum (b0 b1 b2 b3 b4 : Byte) : csum b0 b1 b2 b3 b4 = [b0, b1, b2, b3, b4].sum := by
  simp only [csum_eq_add, List.sum_cons, List.sum_nil]
  ring

/-- Writing a byte before the checksum moves the sum by the difference that it makes to that byte. -/
theorem frameCsum_set (f : Frame) {k : Fin 6} (v : Byte) (hk : k ≠ 5) :
    frameCsum (f.set k v) = frameCsum f + (v - f.get k) := by
  simp only [frameCsum, csum_eq_add]
  match k with
  | 0 | 1 | 2 | 3 | 4 =>
    simp only [Frame.set, Frame.get]
    ring
  | 5 => exact absurd rfl hk

/-- A different byte before the checksum gives a different sum (R81 (e)). -/
theorem frameCsum_set_ne (f : Frame) {k : Fin 6} {v : Byte} (hk : k ≠ 5) (hv : v ≠ f.get k) :
    frameCsum (f.set k v) ≠ frameCsum f := by
  rw [frameCsum_set f v hk]
  exact fun h => hv (sub_eq_zero.mp (add_eq_left.mp h))

/-- One byte up by one and another down by one leave the sum (R81 (f)). -/
theorem frameCsum_compensated (f : Frame) {j k : Fin 6} (hj : j ≠ 5) (hk : k ≠ 5) (hjk : j ≠ k) :
    frameCsum ((f.set j (f.get j + 1)).set k (f.get k - 1)) = frameCsum f := by
  rw [frameCsum_set _ _ hk, frameCsum_set _ _ hj, frame_get_set_other f k j _ hjk.symm]
  ring

/-- Settles O2: the sum of five bytes is one in a commutative group. -/
theorem checksumSumLaws : Obligations.ChecksumSumLaws := by
  refine ⟨csum_toNat, csum_eq_add, fun b0 b1 b2 b3 b4 c0 c1 c2 c3 c4 hperm => ?_,
    fun f _ _ hk hv => frameCsum_set_ne f hk hv, fun f _ _ hj hk hjk => frameCsum_compensated f hj hk hjk⟩
  rw [csum_eq_sum, csum_eq_sum, hperm.sum_eq]

end Sys2Proof.CodecRules
end

section
/-! The exact answers of the codec operations (spec/40_codec.md R80, R82, R83, R85, R86). -/

namespace Sys2Proof.CodecRules
open Sys2Proof Sys2Proof.Machine Sys2Proof.StateRules

/-- The effect of a codec operation, its answer written as one value. -/
theorem exec_answers {i : Instr} {s : State} {a : Answer} (h : codecAnswer? s.cfg i = some a) :
    exec i s = .next { s with answers := s.answers ++ [a] } :=
  exec_codec i s a h

theorem boolByte_eq_ite {t : Bool} {p : Prop} [Decidable p] (h : t = true ↔ p) :
    boolByte t = if p then 0x01 else 0x00 := by
  simp only [boolByte, h]

theorem domainOK_iff (c : Config) (b : Frame) : domainOK c b = true ↔ b.domain = c.domain := beq_iff_eq

/-- `ChecksumOK` as a test on natural numbers (R83). -/
theorem checksumOK_iff_toNat (b : Frame) :
    checksumOK b = true ↔ b.checksum.toNat =
      (b.domain.toNat + b.sender.toNat + b.receiver.toNat + b.variableId.toNat + b.value.toNat) % 256 := by
  rw [checksumOK_iff, ← BitVec.toNat_inj, frameCsum, csum_toNat]

/-- `AddrOK` as membership in the two sets of addresses (R85). -/
theorem addrOK_iff_mem (c : Config) (b : Frame) :
    addrOK c b = true ↔ b.sender ∈ [c.mainboard1, c.panel1] ∧
      b.receiver ∈ [c.panelsBroadcast, c.panel1, c.mainboard1, c.mainboardsBroadcast] := by
  simp [addrOK_iff, senderOK_iff, receiverOK_iff]

/-- The checksum check fails only in strict mode on a wrong checksum byte (R26, R86). -/
theorem checksumPasses_iff_not (c : Config) (b : Frame) :
    checksumPasses c b = true ↔ ¬(c.verifyChecksum = true ∧ b.checksum ≠ frameCsum b) := by
  rw [checksumPasses_iff, checksumOK_iff, not_and_not_right]

/-- Settles O1: the sum of bytes is the sum of natural numbers cut to eight bits. -/
theorem csumAnswersSumModulo256 : Obligations.CsumAnswersSumModulo256 := by
  intro s b0 b1 b2 b3 b4
  rw [← csum_eq_ofNat]
  exact exec_answers rfl

/-- Settles O3: the answer is the frame built, whose last byte is that sum. -/
theorem encBuildsFrame : Obligations.EncBuildsFrame := by
  intro s a r i v
  rw [← csum_eq_ofNat]
  exact exec_answers rfl

/-- Settles O4: the result byte is that of `ChecksumOK`. -/
theorem vfyTestsChecksum : Obligations.VfyTestsChecksum := by
  intro s b
  rw [← boolByte_eq_ite (checksumOK_iff_toNat b)]
  exact exec_answers rfl

/-- Settles O5: the result byte is that of `AddrOK`. -/
theorem afltTestsAddresses : Obligations.AfltTestsAddresses := by
  intro s b
  rw [← boolByte_eq_ite (addrOK_iff_mem s.cfg b)]
  exact exec_answers rfl

/-- Settles O6: the two tests of `DEC` in their order, each with its outcomes exchanged. -/
theorem decTestsDomainThenChecksum : Obligations.DecTestsDomainThenChecksum := by
  intro s b
  refine exec_answers (congrArg some ?_)
  simp only [domainOK_iff, checksumPasses_iff_not, ite_not]
  rfl

end Sys2Proof.CodecRules
end

section
/-! Encoded frames (spec/40_codec.md R88, R89): what `ENC` builds is verified, decoded and framed, and which changes of
its bytes `VFY` finds. -/

namespace Sys2Proof.CodecRules
open Sys2Proof Sys2Proof.Machine Sys2Proof.StateRules

theorem checksumOK_buildFrame (c : Config) (a r i v : Byte) : checksumOK (buildFrame c a r i v) = true :=
  (checksumOK_iff _).mpr rfl

theorem checksumPasses_of_checksumOK (c : Config) {b : Frame} (h : checksumOK b = true) :
    checksumPasses c b = true :=
  (checksumPasses_iff c b).mpr fun _ => h

theorem accept_of_checksumOK (c : Config) {b : Frame} (h : checksumOK b = true) : accept c b = addrOK c b := by
  rw [accept, checksumPasses_of_checksumOK c h, Bool.and_true]

/-- In HUNT, six bytes that start with the domain byte are a frame of the stream exactly when they are accepted, and
none of them is held after it (R109). -/
theorem deframe_frame {c : Config} {b : Frame} (h : b.domain = c.domain) :
    deframe c [] b.bytes = (if accept c b then [b] else [], []) := by
  obtain ⟨b0, b1, b2, b3, b4, b5⟩ := b
  obtain rfl : b0 = c.domain := h
  calc deframe c [] [c.domain, b1, b2, b3, b4, b5]
      = deframe c [c.domain] [b1, b2, b3, b4, b5] := deframe_sync c _
    _ = deframe c [c.domain, b1, b2, b3, b4] [b5] := rfl
    _ = _ := by
      rw [deframe_close]
      split_ifs <;> rfl

/-- `DEC` answers back six bytes that pass its tests, in either mode (R86). -/
theorem exec_dec_of_checksumOK {t : State} {f : Frame} (hdomain : f.domain = t.cfg.domain)
    (hsum : checksumOK f = true) : exec (.dec f) t = .next { t with answers := t.answers ++ [⟨.ok, f.bytes⟩] } := by
  have hd : domainOK t.cfg f = true := (domainOK_iff _ _).mpr hdomain
  have hp : checksumPasses t.cfg f = true := checksumPasses_of_checksumOK _ hsum
  exact exec_answers (by simp [codecAnswer?, hd, hp])

theorem exec_vfy {t : State} {f : Frame} {ok : Bool} (h : checksumOK f = ok) :
    exec (.vfy f) t = .next { t with answers := t.answers ++ [⟨.ok, [boolByte ok]⟩] } :=
  h ▸ exec_answers rfl

/-- Settles O8: the frame is the one `ENC` builds; it carries the domain byte and its own checksum, so that of the tests
only that of the addresses is left. -/
theorem encodeThenDecodeRoundTrip : Obligations.EncodeThenDecodeRoundTrip := by
  intro s a r i v
  have hsum : checksumOK (buildFrame s.cfg a r i v) = true := checksumOK_buildFrame s.cfg a r i v
  refine ⟨buildFrame s.cfg a r i v, exec_answers rfl, rfl, rfl, rfl, rfl, rfl,
    fun t ht => exec_dec_of_checksumOK ht.symm hsum, fun t => exec_vfy hsum, fun t ht => ?_, ?_⟩
  · rw [← ht]
    exact exec_answers rfl
  · rw [deframe_frame rfl, accept_of_checksumOK s.cfg hsum]
    rfl

/-- Writing a byte before the checksum leaves the checksum byte. -/
theorem frame_set_checksum (f : Frame) {k : Fin 6} (v : Byte) (hk : k ≠ 5) : (f.set k v).checksum = f.checksum :=
  frame_get_set_other f 5 k v hk.symm

/-- In a verified frame no single byte can change: a new checksum byte misses the sum, which stays, and any other byte
moves the sum away from the checksum byte, which stays (R89). -/
theorem checksumOK_set {f : Frame} {k : Fin 6} {v : Byte} (h : checksumOK f = true) (hv : v ≠ f.get k) :
    checksumOK (f.set k v) = false := by
  have hsum : f.checksum = frameCsum f := (checksumOK_iff f).mp h
  rw [← Bool.not_eq_true, checksumOK_iff]
  by_cases hk : k = 5
  · subst hk
    exact fun e : v = frameCsum f => hv (e.trans hsum.symm)
  · rw [frame_set_checksum f v hk, hsum]
    exact (frameCsum_set_ne f hk hv).symm

/-- Two changes before the checksum that compensate each other are not found (R89). -/
theorem checksumOK_compensated {f : Frame} {j k : Fin 6} (h : checksumOK f = true) (hj : j ≠ 5) (hk : k ≠ 5)
    (hjk : j ≠ k) : checksumOK ((f.set j (f.get j + 1)).set k (f.get k - 1)) = true := by
  rw [checksumOK_iff, frameCsum_compensated f hj hk hjk, frame_set_checksum _ _ hk, frame_set_checksum _ _ hj]
  exact (checksumOK_iff f).mp h

/-- Settles O9: an encoded frame is verified, and its sum sees a single change and not a compensated one. -/
theorem singleByteMutationFailsVfy : Obligations.SingleByteMutationFailsVfy := by
  intro c a r i v t
  have hsum : checksumOK (buildFrame c a r i v) = true := checksumOK_buildFrame c a r i v
  exact ⟨fun k b hb => exec_vfy (checksumOK_set hsum hb),
    fun j k hj hk hjk => exec_vfy (checksumOK_compensated hsum hj hk hjk)⟩

end Sys2Proof.CodecRules
end

section
/-! The frames that the reader answers (spec/40_codec.md R84, R87): an answer `OK` of `RXB` or `RDF` comes from case
CLOSE alone, on the six bytes that were collected. -/

namespace Sys2Proof.CodecRules
open Sys2Proof Sys2Proof.Machine Sys2Proof.StateRules

theorem byteStep_answers {s t : State} {r : ByteResult} (h : byteStep s = .ok (r, t)) : t.answers = s.answers := by
  cases hq : s.rx with
  | nil =>
    rw [byteStep_nil s hq] at h
    cases h
    rfl
  | cons b q =>
    rw [byteStep_cons s b q hq, Except.ok.injEq] at h
    obtain ⟨_, _, _, hframe⟩ := takeByte_frame b (s.setRx q)
    simpa [h] using congrArg State.answers hframe

/-- The byte step gives a frame only at `idx` 5, and the frame is the buffer completed and accepted (R106). -/
theorem byteStep_frame {s t : State} {f : Frame} (h : byteStep s = .ok (.frame f, t)) :
    s.idx = 5 ∧ accept s.cfg f = true ∧ ∃ b, f = s.buf.set 5 b := by
  cases hq : s.rx with
  | nil =>
    rw [byteStep_nil s hq] at h
    cases h
  | cons b q =>
    rw [byteStep_cons s b q hq, Except.ok.injEq] at h
    rcases takeByte_popped_cases s b q with
      ⟨_, _, e⟩ | ⟨_, _, e⟩ | ⟨_, _, e⟩ | ⟨h5, hacc, e⟩ | ⟨_, _, e⟩ | ⟨_, _, _, e⟩ <;> rw [e] at h <;> cases h
    exact ⟨h5, hacc, b, rfl⟩

theorem finishRxb_answers_ok {r : ByteResult} {t : State} {d : List Byte}
    (h : (finishRxb r t).answers = t.answers ++ [⟨.ok, d⟩]) : ∃ f, r = .frame f ∧ d = f.bytes := by
  cases r with
  | noFrame | consumed => simp [finishRxb] at h
  | frame f => exact ⟨f, rfl, by simpa [finishRxb, eq_comm] using h⟩

theorem finishRdf_answers_ok {r : ByteResult} {t : State} {d : List Byte}
    (h : (finishRdf r t).answers = t.answers ++ [⟨.ok, d⟩]) : ∃ f, r = .frame f ∧ d = f.bytes := by
  cases r with
  | noFrame | consumed => simp [finishRdf] at h
  | frame f => exact ⟨f, rfl, by simpa [finishRdf, eq_comm] using h⟩

/-- An answer `OK` of `RXB` or of a turn of `RDF` is the frame that its byte step gave (R102, R107). -/
theorem reader_answers_ok {s t : State} {d : List Byte} (h : exec .rxb s = .next t ∨ exec .rdf s = .next t)
    (hans : t.answers = s.answers ++ [⟨.ok, d⟩]) : ∃ f u, byteStep s = .ok (.frame f, u) ∧ d = f.bytes := by
  obtain ⟨r, u, hstep⟩ := byteStep_ok s
  rw [← byteStep_answers hstep] at hans
  have ⟨f, hr, hd⟩ : ∃ f, r = .frame f ∧ d = f.bytes := by
    rcases h with h | h
    · rw [exec, execRxb_of_byteStep s u r hstep] at h
      cases h
      exact finishRxb_answers_ok hans
    · rw [exec, execRdf_of_byteStep s u r hstep] at h
      cases h
      exact finishRdf_answers_ok hans
  exact ⟨f, u, hr ▸ hstep, hd⟩

/-- In strict mode an accepted frame that starts with the domain byte is well formed (R84, R87). -/
theorem wellFormedFrame_of_accept {c : Config} {b : Frame} (hstrict : c.verifyChecksum = true)
    (hdomain : b.domain = c.domain) (hacc : accept c b = true) : wellFormedFrame c b = true := by
  obtain ⟨haddr, hpass⟩ := (accept_iff c b).mp hacc
  simp [wellFormedFrame, (domainOK_iff c b).mpr hdomain, haddr, (checksumPasses_iff c b).mp hpass hstrict]

/-- Settles O43: the frame answered was completed at `idx` 5, where its byte 0 is held, and was accepted. -/
theorem strictReaderAnswersWellFormed : Obligations.StrictReaderAnswersWellFormed := by
  intro s t d hheld hstrict hexec hans
  obtain ⟨f, u, hstep, rfl⟩ := reader_answers_ok hexec hans
  obtain ⟨h5, hacc, b, rfl⟩ := byteStep_frame hstep
  have hcollect : s.phase = .collect := (phase_collect_iff s).mpr (by simp [h5])
  exact ⟨_, rfl, wellFormedFrame_of_accept hstrict (hheld hcollect) hacc⟩

end Sys2Proof.CodecRules
end

section
/-! `Deframe` byte by byte (spec/41_transport.md R109, R110): a stream may be cut anywhere, and the reader's byte step is
`Deframe` on that one byte. -/

namespace Sys2Proof.TransportRules
open Sys2Proof Sys2Proof.Machine Sys2Proof.StateRules

/-- A stream is its first byte and then the rest. -/
theorem deframe_cons (c : Config) (h : List Byte) (b : Byte) (q : List Byte) :
    deframe c h (b :: q) =
      ((deframe c h [b]).1 ++ (deframe c (deframe c h [b]).2 q).1, (deframe c (deframe c h [b]).2 q).2) := by
  match h with
  | [] =>
    by_cases hb : b = c.domain
    · subst hb
      simp [deframe_sync]
    · simp [deframe_skip c b _ hb]
  | [b0, b1, b2, b3, b4] =>
    rw [deframe_close, deframe_close]
    split_ifs <;> rfl
  | [_] | [_, _] | [_, _, _] | [_, _, _, _] | _ :: _ :: _ :: _ :: _ :: _ :: _ => rfl

/-- Settles O45, by induction on the first piece. -/
theorem deframeSplitsAnywhere : Obligations.DeframeSplitsAnywhere := by
  intro c h p q
  induction p generalizing h with
  | nil => rfl
  | cons b p ih => rw [List.cons_append, deframe_cons c h b (p ++ q), deframe_cons c h b p, ih, List.append_assoc]

/-- The frames that a byte step hands to the host: one at most. -/
def framesOf : ByteResult → List Frame
  | .frame b => [b]
  | _ => []

theorem framesOf_length_le (r : ByteResult) : (framesOf r).length ≤ 1 := by
  cases r <;> simp [framesOf]

theorem held_hunt {s : State} (h : s.idx = 0) : s.held = [] := by
  simp [State.held, h]

theorem closeFrame_result (b : Frame) (s : State) :
    (closeFrame b s).1 = if accept s.cfg b = true then .frame b else .consumed := by
  rcases closeFrame_cases b s with ⟨ha, e⟩ | ⟨ha, e⟩ | ⟨_, hp, e⟩ <;> rw [e]
  · simp [ha]
  · simp [accept, ha]
  · simp [accept, hp]

/-- The byte step hands out a frame exactly at `idx` 5 with six bytes accepted, and never finds `RX` empty (R106). -/
theorem takeByte_result (b : Byte) (s : State) :
    (takeByte b s).1 =
      if s.idx = 5 ∧ accept s.cfg (s.buf.set 5 b) = true then .frame (s.buf.set 5 b) else .consumed := by
  rcases takeByte_cases b s with ⟨h0, _, e⟩ | ⟨h0, _, e⟩ | ⟨_, h5, e⟩ | ⟨h5, e⟩ <;> rw [e]
  · simp [h0]
  · simp [h0]
  · simp [h5]
  · simp [h5, closeFrame_result]

theorem takeByte_ne_noFrame (b : Byte) (s : State) : (takeByte b s).1 ≠ .noFrame := by
  rw [takeByte_result]
  split_ifs <;> nofun

/-- The six bytes completed at `idx` 5 are a frame of the stream exactly when CLOSE accepts them (R106, R109). -/
theorem deframe_closeFrame (s : State) (b : Byte) (h5 : s.idx = 5) :
    deframe s.cfg s.held [b] =
      (framesOf (closeFrame (s.buf.set 5 b) s).1, (closeFrame (s.buf.set 5 b) s).2.held) := by
  have hheld : s.held = [s.buf.domain, s.buf.sender, s.buf.receiver, s.buf.variableId, s.buf.value] := by
    rw [State.held, h5]
    rfl
  have hset : s.buf.set 5 b =
    ⟨s.buf.domain, s.buf.sender, s.buf.receiver, s.buf.variableId, s.buf.value, b⟩ := rfl
  rw [hheld, deframe_close, ← hset, held_hunt (closeFrame_idx _ s), closeFrame_result]
  split_ifs <;> rfl

/-- A byte step is `Deframe` on its byte, from the bytes held (R102, R109). -/
theorem deframe_takeByte (s : State) (b : Byte) :
    deframe s.cfg s.held [b] = (framesOf (takeByte b s).1, (takeByte b s).2.held) := by
  rcases takeByte_cases b s with ⟨h0, hb, e⟩ | ⟨h0, hb, _⟩ | ⟨h0, h5, e⟩ | ⟨h5, e⟩
  · rw [e, emit_held, held_hunt h0, deframe_skip _ _ _ hb]
    rfl
  · rw [takeByte_sync b s h0 hb, emit_held, held_store s b (by simp [h0]), held_hunt h0, hb, deframe_sync]
    rfl
  · have h0' : s.idx.val ≠ 0 := fun h => h0 (Fin.ext h)
    have h5' : s.idx.val ≠ 5 := fun h => h5 (Fin.ext h)
    have hlt := s.idx.isLt
    rw [e, held_store s b h5, deframe_store _ _ _ _ (by rw [held_length]; omega) (by rw [held_length]; omega)]
    rfl
  · rw [e]
    exact deframe_closeFrame s b h5

/-- What the bytes held and the bytes in `RX` still give: the frames, and the bytes then held. -/
def toCome (s : State) : List Frame × List Byte := deframe s.cfg s.held s.rx

theorem toCome_nil {s : State} (h : s.rx = []) : toCome s = ([], s.held) := by
  rw [toCome, h, deframe_nil]

/-- A byte step takes its frame from the front of what is still to come. -/
theorem toCome_takeByte {s : State} {b : Byte} {q : List Byte} (h : s.rx = b :: q) :
    toCome s = (framesOf (takeByte b (s.setRx q)).1 ++ (toCome (takeByte b (s.setRx q)).2).1,
      (toCome (takeByte b (s.setRx q)).2).2) := by
  have hbyte := deframe_takeByte (s.setRx q) b
  rw [setRx_cfg, setRx_held] at hbyte
  rw [toCome, toCome, h, deframe_cons, hbyte, takeByte_cfg, takeByte_rx, setRx_cfg, setRx_rx]

@[simp] theorem takeByte_answers (b : Byte) (s : State) : (takeByte b s).2.answers = s.answers := by
  obtain ⟨_, _, _, h⟩ := takeByte_frame b s; rw [h]

@[simp] theorem takeByte_port (b : Byte) (s : State) : (takeByte b s).2.port = s.port := by
  obtain ⟨_, _, _, h⟩ := takeByte_frame b s; rw [h]

@[simp] theorem takeByte_arrivals (b : Byte) (s : State) : (takeByte b s).2.arrivals = s.arrivals := by
  obtain ⟨_, _, _, h⟩ := takeByte_frame b s; rw [h]

@[simp] theorem takeByte_arrivalLoop (b : Byte) (s : State) : (takeByte b s).2.arrivalLoop = s.arrivalLoop := by
  obtain ⟨_, _, _, h⟩ := takeByte_frame b s; rw [h]

/-- Settles O46: the frames are those of the byte step, and `RXB` answers by them. -/
theorem byteStepIsOneDeframeClause : Obligations.ByteStepIsOneDeframeClause := by
  intro s b q hq
  refine ⟨_, framesOf (takeByte b (s.setRx q)).1, execRxb_cons s b q hq, by simp, framesOf_length_le _, ?_, ?_⟩
  · cases hr : (takeByte b (s.setRx q)).1 with
    | noFrame => exact absurd hr (takeByte_ne_noFrame _ _)
    | consumed | frame => simp [finishRxb, framesOf]
  · have h := toCome_takeByte hq
    simpa [toCome, hq] using h

end Sys2Proof.TransportRules
end

section
/-! `RDF` on a silent line (spec/41_transport.md R107, R108, R110): each turn takes a byte until a frame or the end of
`RX`; and on a line of noise that never falls silent. -/

namespace Sys2Proof.TransportRules
open Sys2Proof Sys2Proof.Machine Sys2Proof.StateRules Sys2Proof.MemoryRules Sys2Proof.EncodingRules

theorem step_rdf_quiet {s : State} (hquiet : s.Quiet) (hrdf : s.rdfActive = true) : step s = exec .rdf s := by
  rw [step_rdf s hrdf, land_quiet s hquiet.1 hquiet.2]

/-- What a turn of `RDF` on a byte of a silent line leaves alone, and the byte it takes. -/
structure Turned (s : State) (q : List Byte) (t : State) : Prop where
  quiet : t.Quiet
  port : t.port = s.port
  cfg : t.cfg = s.cfg
  rx : t.rx = q

/-- A turn of `RDF` on a byte of a silent line goes round again with the same frames to come, or ends with the first of
them (R107). -/
theorem rdf_turn {s : State} {b : Byte} {q : List Byte} (hquiet : s.Quiet) (hrdf : s.rdfActive = true)
    (hq : s.rx = b :: q) :
    ∃ t, step s = .next t ∧ Turned s q t ∧
      ((t.rdfActive = true ∧ t.answers = s.answers ∧ toCome s = toCome t) ∨
        ∃ f, t.rdfActive = false ∧ t.answers = s.answers ++ [⟨.ok, f.bytes⟩] ∧
          toCome s = (f :: (toCome t).1, (toCome t).2)) := by
  refine ⟨_, (step_rdf_quiet hquiet hrdf).trans (execRdf_cons s b q hq),
    ⟨by simpa [State.Quiet] using hquiet, by simp, by simp, by simp⟩, ?_⟩
  rw [toCome_takeByte hq]
  cases hr : (takeByte b (s.setRx q)).1 with
  | noFrame => exact absurd hr (takeByte_ne_noFrame _ _)
  | consumed => exact .inl ⟨rfl, by simp [finishRdf], rfl⟩
  | frame f => exact .inr ⟨f, rfl, by simp [finishRdf], rfl⟩

/-- On an empty queue the `RDF` ends with `NO_FRAME` (R107). -/
theorem rdf_turn_nil {s : State} (hquiet : s.Quiet) (hrdf : s.rdfActive = true) (hq : s.rx = []) :
    step s = .next ((s.setRdf false).answer .noFrame []) :=
  (step_rdf_quiet hquiet hrdf).trans (execRdf_nil s hq)

/-- How an `RDF` in progress in `s` has ended in `t` (R108). -/
def RdfEnded (s t : State) : Prop :=
  t.rdfActive = false ∧
    ((toCome s).1 = [] ∧ t.rx = [] ∧ t.answers = s.answers ++ [⟨.noFrame, []⟩] ∨
      ∃ f fs, (toCome s).1 = f :: fs ∧ t.answers = s.answers ++ [⟨.ok, f.bytes⟩] ∧
        (deframe s.cfg t.held t.rx).1 = fs)

/-- Settles O49, by induction on `RX`: a turn ends the `RDF` or leaves one byte less. -/
theorem rdfEndsWhenNothingArrives : Obligations.RdfEndsWhenNothingArrives := by
  intro s hquiet hrdf
  change ∃ k t, k ≤ s.rx.length + 1 ∧ Host.Core.run core k s = .next t ∧ RdfEnded s t
  induction hq : s.rx generalizing s with
  | nil =>
    refine ⟨1, _, le_rfl, run_succ 0 s _ (rdf_turn_nil hquiet hrdf hq), rfl, .inl ⟨?_, hq, rfl⟩⟩
    rw [toCome_nil hq]
  | cons b q ih =>
    obtain ⟨t, hstep, ht, ⟨hon, hans, hcome⟩ | ⟨f, hoff, hans, hcome⟩⟩ := rdf_turn hquiet hrdf hq
    · obtain ⟨k, u, hk, hrun, hend⟩ := ih t ht.quiet hon ht.rx
      refine ⟨k + 1, u, Nat.succ_le_succ hk, (run_succ k s t hstep).trans hrun, ?_⟩
      unfold RdfEnded
      rwa [hcome, ← hans, ← ht.cfg]
    · refine ⟨1, t, by simp, run_succ 0 s t hstep, hoff, .inr ⟨f, (toCome t).1, by rw [hcome], hans, ?_⟩⟩
      rw [toCome, ht.cfg]

/-! Draining `RX` with one `RDF` after another. -/

theorem takeByte_setRdf (b : Byte) (s : State) (a : Bool) :
    takeByte b (s.setRdf a) = ((takeByte b s).1, (takeByte b s).2.setRdf a) := by
  rcases takeByte_cases b s with ⟨h0, hb, e⟩ | ⟨h0, hb, _⟩ | ⟨h0, h5, e⟩ | ⟨h5, e⟩
  · rw [e, takeByte_skip b (s.setRdf a) h0 hb]
    rfl
  · rw [takeByte_sync b s h0 hb, takeByte_sync b (s.setRdf a) h0 hb]
    rfl
  · rw [e, takeByte_store b (s.setRdf a) h0 h5]
    rfl
  · rw [e, takeByte_close b (s.setRdf a) h5]
    exact closeFrame_setRdf _ s a

/-- A turn of `RDF` does not ask whether it is the first. -/
theorem exec_rdf_setRdf (s : State) (a : Bool) : exec .rdf (s.setRdf a) = exec .rdf s := by
  change execRdf (s.setRdf a) = execRdf s
  cases hq : s.rx with
  | nil =>
    rw [execRdf_nil s hq, execRdf_nil (s.setRdf a) hq]
    rfl
  | cons b q =>
    have hpop : (s.setRdf a).setRx q = (s.setRx q).setRdf a := rfl
    rw [execRdf_cons s b q hq, execRdf_cons (s.setRdf a) b q hq, hpop, takeByte_setRdf, finishRdf_setRdf]

/-- The `RDF` at the front of the port is taken, with `rest` left there, and is in progress. -/
def beginRdf (s : State) (rest : List Byte) : State := (s.setPort rest).setRdf true

/-- Taking the command `RDF` from the port is the first turn of an `RDF` in progress. -/
theorem step_rdf_command {s : State} {rest : List Byte} (hquiet : s.Quiet) (hrdf : s.rdfActive = false)
    (hport : s.port = 0x08 :: rest) : step s = step (beginRdf s rest) := by
  have hfetch : fetch s.port = .run .rdf rest := by rw [hport]; rfl
  rw [step_run s .rdf rest hrdf hfetch, land_quiet s hquiet.1 hquiet.2,
    step_rdf_quiet (s := beginRdf s rest) hquiet rfl, beginRdf, exec_rdf_setRdf]

theorem run_congr {s s' : State} (h : step s = step s') (k : Nat) :
    Host.Core.run core (k + 1) s = Host.Core.run core (k + 1) s' := by
  have h' : core.step s = core.step s' := h
  simp only [Host.Core.run, h']

/-- `RX` of `s` has been drained in `t` (R110). -/
structure Drained (s t : State) : Prop where
  answers : t.answers = s.answers ++ (toCome s).1.map (fun f => ⟨.ok, f.bytes⟩) ++ [⟨.noFrame, []⟩]
  held : t.held = (toCome s).2
  rx : t.rx = []
  port : t.port = []
  rdfActive : t.rdfActive = false

/-- With an `RDF` in progress, the port needs one more `RDF` for each frame to come; by induction on `RX`. -/
theorem run_drains {s : State} (hquiet : s.Quiet) (hrdf : s.rdfActive = true)
    (hport : s.port = List.replicate (toCome s).1.length 0x08) :
    ∃ t, Host.Core.run core (s.rx.length + 1) s = .next t ∧ Drained s t := by
  induction hq : s.rx generalizing s with
  | nil =>
    have hcome := toCome_nil hq
    refine ⟨_, run_succ 0 s _ (rdf_turn_nil hquiet hrdf hq), ⟨by simp [hcome], by simp [hcome], hq, ?_, rfl⟩⟩
    simpa [hcome] using hport
  | cons b q ih =>
    obtain ⟨t, hstep, ht, ⟨hon, hans, hcome⟩ | ⟨f, hoff, hans, hcome⟩⟩ := rdf_turn hquiet hrdf hq
    · obtain ⟨u, hrun, hu⟩ := ih ht.quiet hon (by rw [ht.port, hport, hcome]) ht.rx
      exact ⟨u, (run_succ _ s t hstep).trans hrun, by rw [hu.answers, hans, hcome], by rw [hu.held, hcome],
        hu.rx, hu.port, hu.rdfActive⟩
    · have htport : t.port = 0x08 :: List.replicate (toCome t).1.length 0x08 := by
        rw [ht.port, hport, hcome]
        rfl
      obtain ⟨u, hrun, hu⟩ := ih (s := beginRdf t (List.replicate (toCome t).1.length 0x08)) ht.quiet rfl rfl ht.rx
      have hnext := run_congr (step_rdf_command ht.quiet hoff htport) q.length
      refine ⟨u, ((run_succ _ s t hstep).trans hnext).trans hrun, ?_, ?_, hu.rx, hu.port, hu.rdfActive⟩
      · have h : u.answers = t.answers ++ (toCome t).1.map _ ++ [_] := hu.answers
        rw [h, hans, hcome]
        simp
      · rw [hcome]
        exact hu.held

/-- Settles O47: the first `RDF` is taken from the port, and from there on `RX` is drained. -/
theorem drainingAnswersDeframe : Obligations.DrainingAnswersDeframe := by
  intro s hquiet hrdf hport
  obtain ⟨t, hrun, ht⟩ := run_drains (s := beginRdf s (List.replicate (toCome s).1.length 0x08)) hquiet rfl rfl
  have hfirst := run_congr (step_rdf_command hquiet hrdf hport) s.rx.length
  exact ⟨t, hfirst.trans hrun, ht.answers, ht.held, ht.rx, ht.port, ht.rdfActive⟩

/-! A line of noise. -/

/-- An `RDF` in progress on an empty queue, hunting, with one byte of noise to come before each step. -/
structure NoiseFed (b : Byte) (s : State) : Prop where
  rdfActive : s.rdfActive = true
  hunt : s.idx = 0
  rx : s.rx = []
  arrivals : s.arrivals = []
  arrivalLoop : s.arrivalLoop = [[b]]
  noise : b ≠ s.cfg.domain
  room : ∀ cap, s.cfg.rxqCap = some cap → 0 < cap

/-- The byte lands and the turn skips it: all that is left of it is the event (R103). -/
theorem step_noise {b : Byte} {s : State} (h : NoiseFed b s) : step s = .next (s.emit (.skip b)) := by
  have hland : s.land = s.setRx [b] := by
    rw [land_eq s [b] [] (.inr ⟨h.arrivals, h.arrivalLoop⟩), arriveAll_of_room s [b] (by rw [h.rx]; exact h.room),
      h.rx, ← h.arrivals]
    rfl
  have hskip := takeByte_skip b (s.setRx []) h.hunt h.noise
  have hrx : s.setRx [] = s := by rw [← h.rx]; rfl
  have hrdf : s.setRdf true = s := by rw [← h.rdfActive]; rfl
  calc step s = execRdf (s.setRx [b]) := by rw [step_rdf s h.rdfActive, hland]; rfl
    _ = .next (finishRdf (takeByte b (s.setRx [])).1 (takeByte b (s.setRx [])).2) :=
      execRdf_cons (s.setRx [b]) b [] rfl
    _ = .next (((s.setRx []).setRdf true).emit (.skip b)) := by rw [hskip]; rfl
    _ = .next (s.emit (.skip b)) := by rw [hrx, hrdf]

theorem noiseFed_emit {b : Byte} {s : State} (h : NoiseFed b s) (e : Event) : NoiseFed b (s.emit e) :=
  ⟨h.rdfActive, h.hunt, h.rx, h.arrivals, h.arrivalLoop, h.noise, h.room⟩

/-- Settles O50, by induction on the steps: every step skips its byte and leaves the rest as it was. -/
theorem endlessNoiseKeepsRdfGoing : Obligations.EndlessNoiseKeepsRdfGoing := by
  intro s b hrdf hidx hrx harr hloop hb hroom n
  have hfed : NoiseFed b s := ⟨hrdf, hidx, hrx, harr, hloop, hb, hroom⟩
  clear hrdf hidx hrx harr hloop hb hroom
  induction n generalizing s with
  | zero => exact ⟨s, rfl, hfed.rdfActive, rfl⟩
  | succ n ih =>
    obtain ⟨t, hrun, ht⟩ := ih (s.emit (.skip b)) (noiseFed_emit hfed _)
    exact ⟨t, (run_succ n s _ (step_noise hfed)).trans hrun, ht⟩

end Sys2Proof.TransportRules
end

section
/-! The frames accepted over a run (spec/41_transport.md R110): every step consumes bytes of `RX` as `Deframe` does,
whatever the host asked and however the bytes arrived. -/

namespace Sys2Proof.TransportRules
open Sys2Proof Sys2Proof.Machine Sys2Proof.StateRules Sys2Proof.EncodingRules

/-- From `s` to `t` the reader took the bytes `taken`: the frames accepted and the bytes then held are those of
`Deframe`. -/
structure Consumed (s : State) (taken : List Byte) (t : State) : Prop where
  cfg : t.cfg = s.cfg
  accepted : t.acceptedFrames = s.acceptedFrames ++ (deframe s.cfg s.held taken).1
  held : t.held = (deframe s.cfg s.held taken).2

theorem consumed_nothing {s t : State} (hcfg : t.cfg = s.cfg) (hacc : t.acceptedFrames = s.acceptedFrames)
    (hheld : t.held = s.held) : Consumed s [] t :=
  ⟨hcfg, by simp [hacc], hheld⟩

theorem Consumed.trans {s t u : State} {p q : List Byte} (h : Consumed s p t) (h' : Consumed t q u) :
    Consumed s (p ++ q) u where
  cfg := h'.cfg.trans h.cfg
  accepted := by
    rw [h'.accepted, h.accepted, h.cfg, h.held, deframeSplitsAnywhere s.cfg s.held p q, List.append_assoc]
  held := by rw [h'.held, h.cfg, h.held, deframeSplitsAnywhere s.cfg s.held p q]

/-! The trace. -/

theorem acceptedFrames_eq_of_trace {s t : State} (h : t.trace = s.trace) : t.acceptedFrames = s.acceptedFrames := by
  rw [State.acceptedFrames, h, State.acceptedFrames]

theorem acceptedFrames_append {s t : State} {events : List Event} (h : t.trace = s.trace ++ events) :
    t.acceptedFrames = s.acceptedFrames ++ events.filterMap Event.accepted? := by
  rw [State.acceptedFrames, h, List.filterMap_append, State.acceptedFrames]

/-- The frames accepted by a byte step are those it hands to the host (R12, R106). -/
theorem takeByte_acceptedFrames (b : Byte) (s : State) :
    (takeByte b s).2.acceptedFrames = s.acceptedFrames ++ framesOf (takeByte b s).1 := by
  rcases takeByte_cases b s with ⟨_, _, e⟩ | ⟨_, _, e⟩ | ⟨_, _, e⟩ | ⟨_, e⟩ <;> rw [e]
  · exact acceptedFrames_append (emit_trace ..)
  · exact acceptedFrames_append (emit_trace ..)
  · exact (List.append_nil _).symm
  · rcases closeFrame_cases (s.buf.set 5 b) s with ⟨_, e⟩ | ⟨_, e⟩ | ⟨_, _, e⟩ <;> rw [e] <;>
      exact acceptedFrames_append (emit_trace ..)

theorem takeByte_consumes (b : Byte) (s : State) : Consumed s [b] (takeByte b s).2 := by
  have h := deframe_takeByte s b
  exact ⟨takeByte_cfg b s, by rw [takeByte_acceptedFrames, h], by rw [h]⟩

/-- What follows a byte step on the head of `RX` and leaves the reader, the queue and the trace has taken that byte. -/
theorem consumes_of_takeByte {s t : State} {b : Byte} {q : List Byte} (hq : s.rx = b :: q)
    (hrx : t.rx = (takeByte b (s.setRx q)).2.rx) (hcfg : t.cfg = (takeByte b (s.setRx q)).2.cfg)
    (htrace : t.trace = (takeByte b (s.setRx q)).2.trace) (hheld : t.held = (takeByte b (s.setRx q)).2.held) :
    ∃ taken, s.rx = taken ++ t.rx ∧ Consumed s taken t := by
  have hpop : Consumed s [] (s.setRx q) := consumed_nothing rfl rfl rfl
  have hfinish := consumed_nothing hcfg (acceptedFrames_eq_of_trace htrace) hheld
  exact ⟨[b], by simp [hq, hrx], (hpop.trans (takeByte_consumes b _)).trans hfinish⟩

/-! The instructions. -/

/-- An instruction writes neither the host port nor the schedule of arrivals. -/
theorem exec_schedule {i : Instr} {s t : State} (h : exec i s = .next t) :
    t.port = s.port ∧ t.arrivals = s.arrivals ∧ t.arrivalLoop = s.arrivalLoop := by
  cases exec_effect i s t h with
  | answered | wrote | restarted => exact ⟨rfl, rfl, rfl⟩
  | rxbEmpty | rdfEmpty | rxbTook | rdfTook => simp
  | received b =>
    obtain ⟨_, e⟩ := closeFrame_frame b s
    rw [receiveFrame_eq]
    split <;> simp [e]

theorem filterMap_accepted_map_tx (q : List Byte) : (q.map Event.tx).filterMap Event.accepted? = [] := by
  rw [List.filterMap_map]
  exact List.filterMap_eq_nil_iff.mpr fun _ _ => rfl

/-- An operation other than `RST` takes bytes from the head of `RX` as `Deframe` does (R110). -/
theorem exec_consumes {i : Instr} {s t : State} (hrst : i ≠ .rst) (hi : i.frame? s.cfg = none)
    (h : exec i s = .next t) : ∃ taken, s.rx = taken ++ t.rx ∧ Consumed s taken t := by
  cases exec_effect i s t h with
  | answered => exact ⟨[], rfl, consumed_nothing rfl rfl rfl⟩
  | wrote f =>
    refine ⟨[], rfl, consumed_nothing rfl ?_ rfl⟩
    rw [acceptedFrames_append (s := s) rfl, filterMap_accepted_map_tx, List.append_nil]
  | restarted e => exact absurd e hrst
  | rxbEmpty => exact ⟨[], rfl, consumed_nothing rfl rfl rfl⟩
  | rdfEmpty => exact ⟨[], rfl, consumed_nothing rfl rfl rfl⟩
  | rxbTook b q _ hq =>
    exact consumes_of_takeByte hq (finishRxb_rx _ _) (finishRxb_cfg _ _) (finishRxb_trace _ _) (finishRxb_held _ _)
  | rdfTook b q _ hq =>
    exact consumes_of_takeByte hq (finishRdf_rx _ _) (finishRdf_cfg _ _) (finishRdf_trace _ _) (finishRdf_held _ _)
  | received b e => rw [hi] at e; cases e

/-- Every instruction has a next state (R137). -/
theorem exec_next (i : Instr) (s : State) : ∃ t, exec i s = .next t := by
  obtain ⟨t, _, h, _⟩ := exec_sameNext i (sameVisible_refl s)
  exact ⟨t, h⟩

/-! The host port without the byte of `RST`. -/

theorem fetch_unassigned {port rest : List Byte} (h : fetch port = .unassigned rest) : rest = port.tail := by
  unfold fetch at h
  split at h <;> cases h
  rfl

/-- The port held the bytes of the instruction fetched, and then those left (R66). -/
theorem fetch_run_port (c : Config) {port rest : List Byte} {i : Instr} (h : fetch port = .run i rest) :
    encode c i ++ rest = port :=
  encodeInvertsDecodeOnCommands c port rest i ((fetch_run_iff port rest i).mp h)

theorem ne_rst_of_fetch {port rest : List Byte} {i : Instr} (hport : (0x0F : Byte) ∉ port)
    (h : fetch port = .run i rest) : i ≠ .rst := by
  rintro rfl
  rw [← fetch_run_port Config.p0 h] at hport
  exact hport List.mem_cons_self

/-! The arrivals. -/

/-- At an unbounded queue the bytes that land are the next of those to arrive (R40). -/
theorem land_unbounded {s : State} (h : s.cfg.rxqCap = none) :
    ∃ l rest, s.land = { s with rx := s.rx ++ l, arrivals := rest } ∧
      ∀ n, arrivalsOf (n + 1) s.arrivals s.arrivalLoop = l ++ arrivalsOf n rest s.arrivalLoop := by
  cases ha : s.arrivals with
  | cons l rest => exact ⟨l, rest, by simp [State.land, ha, arriveAll_unbounded s l h], fun n => rfl⟩
  | nil =>
    cases hl : s.arrivalLoop with
    | cons l rest => exact ⟨l, rest, by simp [State.land, ha, hl, arriveAll_unbounded s l h], fun n => rfl⟩
    | nil =>
      refine ⟨[], [], ?_, fun n => by cases n <;> rfl⟩
      rw [land_quiet s ha hl]
      cases s
      simp_all

/-! The step. -/

/-- What the block does once the arrivals have landed, in `s`: it takes bytes from the head of `RX` as `Deframe` does,
and leaves the schedule; the port still lacks the byte of `RST`. -/
structure BlockTook (s : State) (taken : List Byte) (t : State) : Prop where
  consumed : Consumed s taken t
  rx : s.rx = taken ++ t.rx
  port : (0x0F : Byte) ∉ t.port
  arrivals : t.arrivals = s.arrivals
  arrivalLoop : t.arrivalLoop = s.arrivalLoop

theorem exec_took {i : Instr} {s : State} (hport : (0x0F : Byte) ∉ s.port) (hrst : i ≠ .rst)
    (hi : i.frame? s.cfg = none) : ∃ t taken, exec i s = .next t ∧ BlockTook s taken t := by
  obtain ⟨t, h⟩ := exec_next i s
  obtain ⟨taken, hrx, hcons⟩ := exec_consumes hrst hi h
  obtain ⟨ht, harrivals, hloop⟩ := exec_schedule h
  exact ⟨t, taken, h, hcons, hrx, ht ▸ hport, harrivals, hloop⟩

theorem step_took {s : State} (hport : (0x0F : Byte) ∉ s.port) :
    ∃ t taken, step s = .next t ∧ BlockTook s.land taken t := by
  have hland : (0x0F : Byte) ∉ s.land.port := by rwa [land_port]
  rcases step_cases s with ⟨_, e⟩ | ⟨_, _, e⟩ | ⟨_, rest, hf, e⟩ | ⟨_, i, rest, hf, e⟩ <;> rw [e]
  · exact exec_took hland (by simp) rfl
  · exact ⟨_, [], rfl, consumed_nothing rfl rfl rfl, rfl, hland, rfl, rfl⟩
  · have hrest : (0x0F : Byte) ∉ rest := by
      rw [fetch_unassigned hf]
      exact fun h => hport (List.mem_of_mem_tail h)
    exact ⟨_, [], rfl, consumed_nothing rfl rfl rfl, rfl, hrest, rfl, rfl⟩
  · have hrst : i ≠ .rst := ne_rst_of_fetch hport hf
    have hrest : (0x0F : Byte) ∉ rest := by
      rw [← fetch_run_port s.cfg hf] at hport
      exact fun h => hport (List.mem_append_right _ h)
    have hi := decodeCommand_not_frame _ _ _ ((fetch_run_iff _ _ _).mp hf) s.land.cfg
    obtain ⟨t, taken, h, ht⟩ := exec_took (s := s.land.setPort rest) hrest hrst hi
    have hcommand : Consumed s.land [] (s.land.setPort rest) := consumed_nothing rfl rfl rfl
    exact ⟨t, taken, h, hcommand.trans ht.consumed, ht.rx, ht.port, ht.arrivals, ht.arrivalLoop⟩

/-- A step consumes from `RX` and the bytes to arrive, and what it leaves of both is what the coming steps find. -/
theorem step_consumes {s : State} (hcap : s.cfg.rxqCap = none) (hport : (0x0F : Byte) ∉ s.port) :
    ∃ t taken, step s = .next t ∧ Consumed s taken t ∧ (0x0F : Byte) ∉ t.port ∧
      ∀ n, s.rx ++ arrivalsOf (n + 1) s.arrivals s.arrivalLoop =
        taken ++ (t.rx ++ arrivalsOf n t.arrivals t.arrivalLoop) := by
  obtain ⟨t, taken, h, ht⟩ := step_took hport
  obtain ⟨l, rest, hland, hcoming⟩ := land_unbounded hcap
  have hlanded : Consumed s [] s.land :=
    consumed_nothing (land_cfg s) (acceptedFrames_eq_of_trace (land_trace s)) (land_held s)
  have hrx : s.rx ++ l = taken ++ t.rx := by rw [← ht.rx, hland]
  have harr : t.arrivals = rest := by rw [ht.arrivals, hland]
  refine ⟨t, taken, h, hlanded.trans ht.consumed, ht.port, fun n => ?_⟩
  calc s.rx ++ arrivalsOf (n + 1) s.arrivals s.arrivalLoop
      = (s.rx ++ l) ++ arrivalsOf n rest s.arrivalLoop := by rw [hcoming, List.append_assoc]
    _ = taken ++ (t.rx ++ arrivalsOf n t.arrivals t.arrivalLoop) := by
      rw [hrx, harr, ht.arrivalLoop, land_arrivalLoop, List.append_assoc]

/-- Settles O48, by induction on the steps: what the steps consume one after another is consumed as one stream. -/
theorem acceptedFramesDependOnBytesOnly : Obligations.AcceptedFramesDependOnBytesOnly := by
  intro n s hcap hport
  have ⟨t, taken, hrun, hrx, ht⟩ : ∃ t taken, Host.Core.run core n s = .next t ∧
      s.rx ++ arrivalsOf n s.arrivals s.arrivalLoop = taken ++ t.rx ∧ Consumed s taken t := by
    induction n generalizing s with
    | zero => exact ⟨s, [], rfl, List.append_nil _, consumed_nothing rfl rfl rfl⟩
    | succ n ih =>
      obtain ⟨t, taken, hstep, ht, htport, hrest⟩ := step_consumes hcap hport
      obtain ⟨u, taken', hrun, hrx, hu⟩ := ih t (by rw [ht.cfg, hcap]) htport
      exact ⟨u, taken ++ taken', (run_succ n s t hstep).trans hrun, by rw [hrest, hrx, List.append_assoc], ht.trans hu⟩
  exact ⟨t, taken, hrun, hrx, ht.accepted, ht.held⟩

end Sys2Proof.TransportRules
end

section
/-! The exact effects of the transport operations (spec/41_transport.md R100 to R107, R111, R113). -/

namespace Sys2Proof.TransportRules
open Sys2Proof Sys2Proof.Machine Sys2Proof.StateRules Sys2Proof.CodecRules Sys2Proof.EncodingRules

/-- Settles O11: the six writes of `TXF` are one. -/
theorem txfWritesSixBytes : Obligations.TxfWritesSixBytes := by
  intro s f
  rw [exec, execTxf, memWrite_all]
  rfl

/-- Settles O12: `ENC` answers the frame it builds, and `TXF` writes that frame. -/
theorem sendAppendsEncodedFrame : Obligations.SendAppendsEncodedFrame := by
  intro s a r i v
  refine ⟨buildFrame s.cfg a r i v, _, exec_answers rfl, rfl, ?_⟩
  rw [txfWritesSixBytes, List.append_assoc]
  rfl

/-- Settles O13: the byte step finds `RX` empty. -/
theorem rxbOnEmptyQueueAnswersNoFrame : Obligations.RxbOnEmptyQueueAnswersNoFrame :=
  fun s hrx => execRxb_nil s hrx

/-- Settles O20: the byte step finds `RX` empty. -/
theorem rdfOnEmptyQueueAnswersNoFrame : Obligations.RdfOnEmptyQueueAnswersNoFrame :=
  fun s hrx => execRdf_nil s hrx

/-- Settles O23: the definition of `RST`. -/
theorem rstReturnsToHunt : Obligations.RstReturnsToHunt := fun _ => rfl

/-- Settles O29: the first case of the step. -/
theorem stepContinuesRdf : Obligations.StepContinuesRdf := step_rdf

/-! `RXB` in the cases of its byte step. -/

/-- The answer of `RXB` to a byte step known by its result. -/
theorem exec_rxb_of_takeByte {s t : State} {b : Byte} {q : List Byte} {r : ByteResult} (hq : s.rx = b :: q)
    (h : takeByte b (s.setRx q) = (r, t)) : exec .rxb s = .next (finishRxb r t) := by
  rw [exec, execRxb_cons s b q hq, h]

/-- Settles O14: case SKIP. -/
theorem rxbSkipsNoise : Obligations.RxbSkipsNoise :=
  fun s b q h0 hq hb => exec_rxb_of_takeByte hq (takeByte_skip b (s.setRx q) h0 hb)

/-- Settles O15: case SYNC. -/
theorem rxbSyncsOnDomain : Obligations.RxbSyncsOnDomain := by
  intro s b q h0 hq hb
  rw [exec_rxb_of_takeByte hq (takeByte_sync b (s.setRx q) h0 hb), setRx_idx, h0]
  rfl

/-- Settles O16: case STORE. -/
theorem rxbStoresInsideFrame : Obligations.RxbStoresInsideFrame := by
  intro s b q k h1 h4 hk hq
  have h0 : s.idx ≠ 0 := fun h => by simp [h] at h1
  have h5 : s.idx ≠ 5 := fun h => by simp [h] at h4
  have hnext : s.idx + 1 = k := by
    apply Fin.ext
    rw [Fin.val_add, hk]
    exact Nat.mod_eq_of_lt (by change _ + 1 < 6; omega)
  refine ⟨s.buf.set s.idx b, frame_get_set_same _ _ _, fun j hj => frame_get_set_other _ _ _ _ hj, ?_⟩
  rw [exec_rxb_of_takeByte hq (takeByte_store b (s.setRx q) h0 h5), setRx_idx, hnext]
  rfl

/-- The checksum check fails in strict mode on a wrong checksum byte, and then only (R106). -/
theorem checksumPasses_eq_false_iff (c : Config) (b : Frame) :
    checksumPasses c b = false ↔ c.verifyChecksum = true ∧ b.checksum ≠ frameCsum b := by
  rw [← Bool.not_eq_true, checksumPasses_iff_not, not_not]

/-- Acceptance with the checksum check written out (R87). -/
theorem accept_iff_checksum (c : Config) (b : Frame) :
    accept c b = true ↔ addrOK c b = true ∧ (c.verifyChecksum = true → b.checksum = frameCsum b) := by
  rw [accept_iff, checksumPasses_iff, checksumOK_iff]

/-- Settles O17: the three ends of case CLOSE. -/
theorem rxbCompletesFrame : Obligations.RxbCompletesFrame := by
  intro s b q f h5 hq hf
  have hclose : takeByte b (s.setRx q) = closeFrame f (s.setRx q) := by
    rw [hf]
    exact takeByte_close b (s.setRx q) h5
  simp only [← accept_iff_checksum, ← checksumPasses_eq_false_iff]
  have hends := closeFrame_cases f (s.setRx q)
  rw [setRx_cfg] at hends
  rcases hends with ⟨hacc, e⟩ | ⟨haddr, e⟩ | ⟨haddr, hpass, e⟩ <;> rw [exec_rxb_of_takeByte hq (hclose.trans e)]
  · obtain ⟨haddr, hpass⟩ := (accept_iff _ _).mp hacc
    rw [if_neg (by simp [haddr]), if_neg (by simp [hpass]), if_pos hacc]
    rfl
  · rw [if_pos haddr, if_neg (by simp [accept, haddr])]
    rfl
  · rw [if_neg (by simp [haddr]), if_pos hpass, if_neg (by simp [accept, hpass])]
    rfl

/-! `idx`, a turn of `RDF` beside `RXB`, and a frame class dropped. -/

theorem takeByte_idx (b : Byte) (s : State) :
    (takeByte b s).2.idx =
      if s.idx = 0 then (if b = s.cfg.domain then 1 else 0) else if s.idx = 5 then 0 else s.idx + 1 := by
  rcases takeByte_cases b s with ⟨h0, hb, e⟩ | ⟨h0, hb, e⟩ | ⟨h0, h5, e⟩ | ⟨h5, e⟩ <;> rw [e]
  · simp [h0, hb]
  · simp [h0, hb]
  · simp [h0, h5]
  · simp [h5]

/-- Settles O19: the table of `idx` and the result of the byte step, and the effects of the other operations. -/
theorem readerStateGraph : Obligations.ReaderStateGraph := by
  refine ⟨fun s b q hq => ⟨_, execRxb_cons s b q hq, ?_, ?_⟩, fun s hrx => ⟨_, execRxb_nil s hrx, rfl⟩, fun s => ?_,
    fun s => ⟨_, rfl, rfl⟩, fun s i hrxb hrdf hrst hi => ?_⟩
  · rw [finishRxb_idx, takeByte_idx, setRx_idx, setRx_cfg]
  · rw [takeByte_result, setRx_idx, setRx_cfg, setRx_buf]
    split_ifs <;> simp [finishRxb]
  · obtain ⟨r, u, h⟩ := byteStep_ok s
    exact ⟨_, _, execRxb_of_byteStep s u r h, execRdf_of_byteStep s u r h, by simp⟩
  · obtain ⟨t, h⟩ := exec_next i s
    refine ⟨t, h, ?_⟩
    cases exec_effect i s t h with
    | answered | wrote => rfl
    | restarted e => exact absurd e hrst
    | rxbEmpty e | rxbTook _ _ e => exact absurd e hrxb
    | rdfEmpty e | rdfTook _ _ e => exact absurd e hrdf
    | received b e => rw [hi] at e; cases e

/-- Only an empty `RX` makes a byte step without a byte. -/
theorem rx_nil_of_byteStep_noFrame {s t : State} (h : byteStep s = .ok (.noFrame, t)) : s.rx = [] := by
  cases hq : s.rx with
  | nil => rfl
  | cons b q =>
    rw [byteStep_cons s b q hq, Except.ok.injEq] at h
    exact absurd (congrArg Prod.fst h) (takeByte_ne_noFrame b _)

/-- Settles O21: both answer one byte step, by its result. -/
theorem rdfTurnFollowsRxb : Obligations.RdfTurnFollowsRxb := by
  intro s
  obtain ⟨r, u, h⟩ := byteStep_ok s
  have hans : u.answers = s.answers := byteStep_answers h
  refine ⟨_, execRxb_of_byteStep s u r h, ?_⟩
  rw [exec, execRdf_of_byteStep s u r h, ← hans]
  cases r with
  | consumed => exact .inl ⟨rfl, rfl⟩
  | noFrame => exact .inr (.inl ⟨rx_nil_of_byteStep_noFrame h, rfl, rfl⟩)
  | frame f => exact .inr (.inr ⟨f, rfl, rfl⟩)

/-- Settles O22: case CLOSE accepts, and a turn of `RDF` ends with the frame. -/
theorem rdfReturnsAcceptedFrame : Obligations.RdfReturnsAcceptedFrame := by
  intro s b q f h5 hq hf hacc
  obtain rfl : f = s.buf.set 5 b := hf
  have hframe := (takeByte_close b (s.setRx q) h5).trans (closeFrame_of_accept (s := s.setRx q) hacc)
  rw [exec, execRdf_cons s b q hq, hframe]
  rfl

/-- Settles O26: case CLOSE drops the frame, and its `CONSUMED` is the answer of an `RXB` only. -/
theorem frameClassesDroppedOnWrongChecksum : Obligations.FrameClassesDroppedOnWrongChecksum := by
  intro s i b hi hstrict hsum
  obtain ⟨hexec, haddr⟩ := exec_frame i s b hi
  have hfails : checksumPasses s.cfg b = false := (checksumPasses_eq_false_iff _ _).mpr ⟨hstrict, hsum⟩
  have hclose : closeFrame b s = (.consumed, ((s.setBuf b).setIdx 0).emit (.dropCsum b)) := by
    simp [closeFrame, haddr, hfails, raiseDrop, DropReason.event, State.setIdx]
  rw [hexec, receiveFrame_eq, hclose]
  cases hrdf : s.rdfActive
  · simp [finishRxb, State.answer, State.emit, State.setBuf, State.setIdx, hrdf]
  · simp [finishRdf, State.setRdf, State.emit, State.setBuf, State.setIdx]

end Sys2Proof.TransportRules
end

section
/-! The answers' status bytes, and that nothing the block does is fatal (spec/60_exceptions.md R135, R137). -/

namespace Sys2Proof.ExceptionRules
open Sys2Proof Sys2Proof.Machine Sys2Proof.TransportRules

/-- The machine goes on after every step: one that runs an instruction as the instruction does, the others by their own
next state (R137, R166). -/
theorem step_next (s : State) : ∃ t, step s = .next t := by
  rcases step_cases s with ⟨_, hrdf⟩ | ⟨_, _, hidle⟩ | ⟨_, rest, _, hbad⟩ | ⟨_, i, rest, _, hrun⟩
  · exact hrdf ▸ exec_next .rdf s.land
  · exact ⟨s.land, hidle⟩
  · exact ⟨(s.land.setPort rest).badOp, hbad⟩
  · exact hrun ▸ exec_next i (s.land.setPort rest)

/-- Settles O36: the instructions by `exec_next`, the steps by `step_next`. -/
theorem nothingStopsTheMachine : Obligations.NothingStopsTheMachine := ⟨exec_next, step_next⟩

/-- Settles O33: an answer's bytes are its status's number and then its data, whatever the data. -/
theorem statusByteLeadsAnswer : Obligations.StatusByteLeadsAnswer := fun _ => ⟨rfl, rfl, rfl, rfl, rfl, rfl⟩

end Sys2Proof.ExceptionRules
end

section
/-! The reader in lenient mode (spec/70_reset_and_hazards.md R169): without the test of the checksum, acceptance is
the test of the addresses. -/

namespace Sys2Proof.TransportRules
open Sys2Proof Sys2Proof.Machine Sys2Proof.StateRules Sys2Proof.CodecRules

theorem checksumPasses_of_lenient {c : Config} (b : Frame) (hlenient : c.verifyChecksum = false) :
    checksumPasses c b = true :=
  (checksumPasses_iff c b).mpr fun hstrict => absurd hstrict (by simp [hlenient])

theorem accept_of_lenient {c : Config} (b : Frame) (hlenient : c.verifyChecksum = false) :
    accept c b = addrOK c b := by
  rw [accept, checksumPasses_of_lenient b hlenient, Bool.and_true]

/-- Settles O44: six bytes that start with `DOMAIN` are a frame exactly when accepted, and in lenient mode that is the
test of the addresses. -/
theorem lenientReaderIgnoresChecksum : Obligations.LenientReaderIgnoresChecksum := by
  intro c b hlenient hdomain
  rw [deframe_frame hdomain, accept_of_lenient b hlenient]

end Sys2Proof.TransportRules
end
